-- ==== Sys2Proof/Word.lean ====
section
/-! DEFINITION. The value types of the block (spec/00_scope.md section 8) and the thirteen positions. -/

namespace Sys2Proof

/-- `u8`: a symbol byte or an entry of a table (R4, R5: `SYM_W` = `ROM_W` = 8). -/
abbrev Byte := BitVec 8

/-- `u5`: a group (R4: `GROUP_W` = 5). -/
abbrev Group := BitVec 5

/-- `u64`: the integer (R4: `VALUE_W` = 64). -/
abbrev Value := BitVec 64

/-- The 104-bit symbol bus of a port (R31, R44, R45). -/
abbrev Bus := BitVec 104

/-- A position, 0 to 12; position 0 is the first character and the most significant group (R30, R48). -/
abbrev Pos := Fin 13

/-- Thirteen values, one per position. -/
abbrev PerPos (α : Type) := Vector α 13

/-- The 13 symbols of an encoded form, `sym[0..12]` (R31: held as an array indexed by position). -/
abbrev Symbols := PerPos Byte

/-- The 32 bytes of an alphabet, index 0 first (R60). -/
abbrev AlphabetBytes := Vector Byte 32

/-- The array whose element at position `p` is `f p`. -/
def tab13 {α : Type} (f : Pos → α) : PerPos α :=
  #v[f 0, f 1, f 2, f 3, f 4, f 5, f 6, f 7, f 8, f 9, f 10, f 11, f 12]

/-- The two units of the codec (R2). -/
inductive CodecUnit where
  | encoder
  | decoder
deriving DecidableEq, Repr

end Sys2Proof
end

