-- ==== Sys2Proof/Config.lean ====
section
/-! DEFINITION. What is fixed before cycle 0 and is not state (R24): the alphabet and its code, the sentinel, and
the open parameters, which are constants with no body. -/

namespace Sys2Proof.Config

/-- The exposed alphabet constant (R144, R5, R60). -/
def alphabetString : String := "abcdefghijklmnopqrstuvwxyz234567"

/-- The characters of `alphabetString`, index 0 first (R28). -/
def alphabetChars : List Char :=
  ['a', 'b', 'c', 'd', 'e', 'f', 'g', 'h', 'i', 'j', 'k', 'l', 'm', 'n', 'o', 'p'] ++
  ['q', 'r', 's', 't', 'u', 'v', 'w', 'x', 'y', 'z', '2', '3', '4', '5', '6', '7']

/-- `SYMBOL_CODE`: the byte of a character is its ASCII code (R5, R28, decision D2). -/
def symbolCode (c : Char) : Byte := BitVec.ofNat 8 c.toNat

/-- R65's check of an alphabet: exactly 32 characters, none repeated, each with a code that fits in a `u8`. -/
def alphabetOk (cs : List Char) : Bool :=
  cs.length == 32 && decide cs.Nodup && cs.all (fun c => decide (c.toNat < 256))

/-- The 32 bytes of the alphabet, index 0 first: the one legal operand of BUILD (R60). -/
def alphabet : AlphabetBytes := ⟨⟨alphabetChars.map symbolCode⟩, rfl⟩

/-- `SENTINEL` (R5, R119, decision D3). -/
def sentinel : Byte := 0xFF#8

/-- The bit pattern of the validity test (R117, decision D3). -/
def validityMask : Byte := 0xE0#8

/-- `LAT_ENC`, open: a natural number, 0 allowed (R178). No body: nothing is known of it (log 2). -/
opaque latEnc : Nat

/-- `LAT_DEC`, open (R178, log 2). -/
opaque latDec : Nat

/-- The `value` DEC answers with `valid = 0`: unspecified (R121). A free value: a draw, indexed by the
model's counter, that may also depend on the 13 input bytes (log 3). -/
opaque invalidValue : Nat → Symbols → Value

/-- `enc_rsp_sym` while `enc_rsp_stb` is 0: unspecified, may differ from cycle to cycle (R22, R176, log 4). -/
opaque idleEncSym : Nat → Bus

/-- `dec_rsp_value` while `dec_rsp_stb` is 0 (R22, R176, log 4). -/
opaque idleDecValue : Nat → Value

/-- `dec_rsp_valid` while `dec_rsp_stb` is 0 (R22, R176, log 4). -/
opaque idleDecValid : Nat → Bool

/-! What a named value holds that has not been written in its transaction: it "has no value" (R15). Free values, read only
by a micro-operation that runs by itself with no transaction begun (log 6). -/

opaque unwrittenEncValue : Nat → Value
opaque unwrittenGrp : Nat → PerPos Group
opaque unwrittenEncSym : Nat → Symbols
opaque unwrittenDecSym : Nat → Symbols
opaque unwrittenRaw : Nat → PerPos Byte
opaque unwrittenContrib : Nat → PerPos Value
opaque unwrittenAcc : Nat → Byte
opaque unwrittenDecValue : Nat → Value
opaque unwrittenDecValid : Nat → Bool

end Sys2Proof.Config
end

