-- ==== Sys2Proof/Syntax.lean ====
section
/-! DEFINITION. The operations of the block: one constructor per row of spec/opcode_table.json. -/

namespace Sys2Proof

/-- An operation (R47, R48): the two requests with their operand, BUILD with its alphabet, and the 26
micro-operations, whose position is part of their name. -/
inductive Instr where
  /-- ENC (R88): encode `value`. -/
  | enc (value : Value)
  /-- DEC (R123): decode the 13 symbols `sym[0..12]`. -/
  | dec (sym : Symbols)
  /-- BUILD (R60): fill the two tables from an alphabet. -/
  | build (alphabet : AlphabetBytes)
  | encP0 | encP1 | encP2 | encP3 | encP4 | encP5 | encP6
  | encP7 | encP8 | encP9 | encP10 | encP11 | encP12
  | decP0 | decP1 | decP2 | decP3 | decP4 | decP5 | decP6
  | decP7 | decP8 | decP9 | decP10 | decP11 | decP12
deriving DecidableEq, Repr

end Sys2Proof
end

