-- ==== Sys2Proof/WellFormed.lean ====
section
/-! DEFINITION. Which operations are legal. Every ENC and every DEC request is (R43, R45, R52); BUILD has one
legal operand (R60, R65). -/

namespace Sys2Proof

/-- The one check: BUILD's operand is the constant alphabet (R60: "and nothing else"). -/
def Instr.wf : Instr → Bool
  | .build a => decide (a = Config.alphabet)
  | .enc _ | .dec _ => true
  | .encP0 | .encP1 | .encP2 | .encP3 | .encP4 | .encP5 | .encP6 => true
  | .encP7 | .encP8 | .encP9 | .encP10 | .encP11 | .encP12 => true
  | .decP0 | .decP1 | .decP2 | .decP3 | .decP4 | .decP5 | .decP6 => true
  | .decP7 | .decP8 | .decP9 | .decP10 | .decP11 | .decP12 => true

end Sys2Proof
end

