-- ==== Sys2Proof/Decode.lean ====
section
/-! DEFINITION. From request words to operations and back (spec/30_encoding.md): the bus packing, the decoder, the
encoder, and the decoder as spec/opcode_table.json numbers its words. -/

namespace Sys2Proof

/-! ### The symbol bus -/

/-- The OR of thirteen words, one per position. -/
def or13 {w : Nat} (f : Pos → BitVec w) : BitVec w :=
  f 0 ||| f 1 ||| f 2 ||| f 3 ||| f 4 ||| f 5 ||| f 6 ||| f 7 ||| f 8 ||| f 9 ||| f 10 ||| f 11 ||| f 12

/-- The low bus bit of the symbol of position `p`: `sym[p]` is bits `[103 - 8p : 96 - 8p]` (R31, R44, R45). -/
def symLo (p : Pos) : Nat := 96 - 8 * p.val

/-- The 13 symbols on the 104-bit bus (R44). -/
def packSym (v : Symbols) : Bus := or13 fun p => (v[p].setWidth 104) <<< symLo p

/-- The 13 symbols of a bus word (R45). -/
def unpackSym (w : Bus) : Symbols := tab13 fun p => w.extractLsb' (symLo p) 8

/-- The low bit of alphabet byte `i` in BUILD's 256-bit word: index 0 first, that is most significant (R47). -/
def alphaLo (i : Nat) : Nat := 248 - 8 * i

/-- The 32 bytes of BUILD's word, index 0 first (R47). -/
def unpackAlphabet (w : BitVec 256) : AlphabetBytes :=
  let b (i : Nat) : Byte := w.extractLsb' (alphaLo i) 8
  #v[b 0, b 1, b 2, b 3, b 4, b 5, b 6, b 7, b 8, b 9, b 10, b 11, b 12, b 13, b 14, b 15,
     b 16, b 17, b 18, b 19, b 20, b 21, b 22, b 23, b 24, b 25, b 26, b 27, b 28, b 29, b 30, b 31]

/-- BUILD's word from its 32 bytes, index 0 first (R47). -/
def packAlphabet (a : AlphabetBytes) : BitVec 256 :=
  a.toList.foldl (fun w b => (w <<< 8) ||| b.setWidth 256) 0

/-! ### Request words -/

/-- A word and the port it is for. The operation is chosen by the port, not by a bit of the word (R47);
a position word belongs to one of the units (R48); BUILD's word is elaboration's (R47). -/
inductive RequestWord where
  | encReq (w : BitVec 64)
  | decReq (w : Bus)
  | position (u : CodecUnit) (w : BitVec 4)
  | elaboration (w : BitVec 256)
deriving DecidableEq, Repr

/-- Why a word is no operation. -/
inductive Reject where
  /-- A position index 13, 14 or 15: "a model must give them no meaning" (R48, U17). -/
  | noSuchPosition
  /-- BUILD with anything but the constant alphabet (R60, R65, U6). -/
  | illegalAlphabet
deriving DecidableEq, Repr

/-- The encoder's micro-operation of position `p`. -/
def encPosInstr : Pos → Instr
  | 0 => .encP0 | 1 => .encP1 | 2 => .encP2 | 3 => .encP3 | 4 => .encP4 | 5 => .encP5 | 6 => .encP6
  | 7 => .encP7 | 8 => .encP8 | 9 => .encP9 | 10 => .encP10 | 11 => .encP11 | 12 => .encP12

/-- The decoder's micro-operation of position `p`. -/
def decPosInstr : Pos → Instr
  | 0 => .decP0 | 1 => .decP1 | 2 => .decP2 | 3 => .decP3 | 4 => .decP4 | 5 => .decP5 | 6 => .decP6
  | 7 => .decP7 | 8 => .decP8 | 9 => .decP9 | 10 => .decP10 | 11 => .decP11 | 12 => .decP12

/-- The decoder, total on every word of every port (R43, R45, R47, R48, R65). -/
def decode : RequestWord → Except Reject Instr
  | .encReq w => .ok (.enc w)
  | .decReq w => .ok (.dec (unpackSym w))
  | .position .encoder w => if h : w.toNat < 13 then .ok (encPosInstr ⟨w.toNat, h⟩) else .error .noSuchPosition
  | .position .decoder w => if h : w.toNat < 13 then .ok (decPosInstr ⟨w.toNat, h⟩) else .error .noSuchPosition
  | .elaboration w =>
      if unpackAlphabet w = Config.alphabet then .ok (.build (unpackAlphabet w)) else .error .illegalAlphabet

/-- The encoder of operations, from the same formats: the word of each row of spec/opcode_table.json. -/
def encode : Instr → RequestWord
  | .enc v => .encReq v
  | .dec s => .decReq (packSym s)
  | .build a => .elaboration (packAlphabet a)
  | .encP0 => .position .encoder 0b0000#4
  | .encP1 => .position .encoder 0b0001#4
  | .encP2 => .position .encoder 0b0010#4
  | .encP3 => .position .encoder 0b0011#4
  | .encP4 => .position .encoder 0b0100#4
  | .encP5 => .position .encoder 0b0101#4
  | .encP6 => .position .encoder 0b0110#4
  | .encP7 => .position .encoder 0b0111#4
  | .encP8 => .position .encoder 0b1000#4
  | .encP9 => .position .encoder 0b1001#4
  | .encP10 => .position .encoder 0b1010#4
  | .encP11 => .position .encoder 0b1011#4
  | .encP12 => .position .encoder 0b1100#4
  | .decP0 => .position .decoder 0b0000#4
  | .decP1 => .position .decoder 0b0001#4
  | .decP2 => .position .decoder 0b0010#4
  | .decP3 => .position .decoder 0b0011#4
  | .decP4 => .position .decoder 0b0100#4
  | .decP5 => .position .decoder 0b0101#4
  | .decP6 => .position .decoder 0b0110#4
  | .decP7 => .position .decoder 0b0111#4
  | .decP8 => .position .decoder 0b1000#4
  | .decP9 => .position .decoder 0b1001#4
  | .decP10 => .position .decoder 0b1010#4
  | .decP11 => .position .decoder 0b1011#4
  | .decP12 => .position .decoder 0b1100#4

/-! ### The table's numbering -/

/-- The request word that `w` is for a row of `nbits` bits. The words of this block are not stored as bytes: each is
one number on a port, and the table numbers it with bit 0 least significant. 64 bits are ENC's, 104 DEC's,
256 BUILD's. A position word has 4 bits; a row's width is rounded to whole bytes, so up to 32 bits are taken as a
container of it, of which only the low four bits are the word (the rows' mask is 0xF). ENC.Pp and DEC.Pp have the SAME
word, and only the unit tells them apart (R48): with no unit given, this takes the encoder's (log 9). -/
def requestOfTable (nbits w : Nat) : Option RequestWord :=
  if nbits = 64 then some (.encReq (BitVec.ofNat 64 w))
  else if nbits = 104 then some (.decReq (BitVec.ofNat 104 w))
  else if nbits = 256 then some (.elaboration (BitVec.ofNat 256 w))
  else if 4 ≤ nbits ∧ nbits ≤ 32 then some (.position .encoder (BitVec.ofNat 4 w))
  else none

/-- The operation the decoder reads from a word of the table. -/
def decodeTableWord (nbits w : Nat) : Option Instr :=
  match requestOfTable nbits w with
  | some r => (decode r).toOption
  | none => none

end Sys2Proof
end

