-- ==== Sys2Proof/Machine/State.lean ====
section
/-! DEFINITION. The state of the block as plain data, the reasons a step can stop, and the state after reset. -/

namespace Sys2Proof.Machine

/-- The contents of one table: the entries that differ from what the table holds by construction, addresses strictly
rising (Machine/Memory.lean says what an unlisted address reads as, and what the canonical form is). -/
abbrev Memory := List Host.Cell

/-- The named values of one transaction of the encoder (R15). -/
structure EncTxn where
  value : Value
  grp : PerPos Group
  sym : Symbols
deriving DecidableEq, Repr

/-- The named values of one transaction of the decoder (R15; `contrib` is `c[p]` of R103 to R115). -/
structure DecTxn where
  sym : Symbols
  raw : PerPos Byte
  contrib : PerPos Value
  acc : Byte
  value : Value
  valid : Bool
deriving DecidableEq, Repr

/-- A DEC response: the pair of R46, R100. -/
structure DecRsp where
  value : Value
  valid : Bool
deriving DecidableEq, Repr

/-- The inputs of the ports in one clock cycle (port list of spec/30_encoding.md section 3). -/
structure PortCycle where
  rst : Bool
  encReqStb : Bool
  encReqValue : Value
  decReqStb : Bool
  decReqSym : Bus
deriving DecidableEq, Repr

/-- A call of a software-facing operation (R140 to R143). A buffer is the list of its symbols; a string is the list of
its bytes (R143, decision D2, log 17). -/
inductive Call where
  | encodeUint64 (value : Value) (dst : List Byte)
  | encodeUint64ToString (value : Value)
  | decodeUint64 (src : List Byte)
  | decodeUint64FromString (s : List Byte)
deriving DecidableEq, Repr

/-- A call whose transaction has been issued and whose response is still to come (R145). -/
inductive PendingCall where
  /-- An encode call with its destination buffer. -/
  | encode (dst : List Byte)
  | decode
deriving DecidableEq, Repr

/-- What a call returned: the destination buffer or string (R140, R141), or the pair of R142, R143. -/
inductive CallResult where
  | encoded (dst : List Byte)
  | decoded (value : Value) (valid : Bool)
deriving DecidableEq, Repr

/-- One input of the machine, in the order in which the host gives them (log 1). -/
inductive Input where
  /-- One clock cycle with these port inputs (R176). -/
  | cycle (c : PortCycle)
  /-- One micro-operation by itself: the position word `w` of unit `u`. No port asks for it (R48); it is the
  model's way to run a row of the table (log 7). -/
  | position (u : CodecUnit) (w : BitVec 4)
  /-- BUILD, at elaboration (R64; log 8). -/
  | elaborate (w : BitVec 256)
  /-- A call of a software-facing operation (R140 to R143). -/
  | call (c : Call)
  /-- The return of a call whose transaction has been issued (R145). The model's own input: given without its call, it
checks no length (DESIGN CHOICE, log 12). -/
  | await (c : PendingCall)
deriving DecidableEq, Repr

/-- The machine. -/
structure State where
  /-- `ENC_ROM`, 32 entries of 8 bits (R11). -/
  encRom : Memory
  /-- `DEC_ROM`, 256 entries of 8 bits (R12). -/
  decRom : Memory
  /-- The encoder's named values while a transaction is being computed, else None: "they do not exist before it, do not
  survive it" (R15, log 6). -/
  enc : Option EncTxn
  /-- The decoder's named values while a transaction is being computed, else None (R15, log 6). -/
  dec : Option DecTxn
  /-- What the encoder's slot 0 takes at the coming clock edge (R19: "`Some(f_U(req))` or `None`"). -/
  encIn : Option Symbols
  /-- What the decoder's slot 0 takes at the coming clock edge. -/
  decIn : Option DecRsp
  /-- `enc_slot[0 .. LAT_ENC-1]`, slot 0 first (R19). -/
  encSlots : List (Option Symbols)
  /-- `dec_slot[0 .. LAT_DEC-1]`, slot 0 first (R19). -/
  decSlots : List (Option DecRsp)
  /-- The response ports in the latest clock cycle (R44, R46, log 16). -/
  encRspStb : Bool
  encRspSym : Bus
  decRspStb : Bool
  decRspValid : Bool
  decRspValue : Value
  /-- The host's coming inputs, oldest first (log 1). -/
  inputs : List Input
  /-- What the latest completed call returned (R140 to R143, log 12). -/
  callResult : Option CallResult
  /-- The index of the coming cycle's free values (log 5). -/
  draw : Nat
deriving DecidableEq, Repr

/-- The contract violations (R151): fatal, the run that meets one has no result. SAFE: a run that stops proves
nothing about what follows. -/
inductive Fault where
  /-- `ContractViolation(ENC_DST_SHORT)`: raised by a call of `encode_uint64` whose destination has fewer than 13 slots
  (R140). Safe: nothing has been written and no transaction issued. -/
  | encDstShort
  /-- `ContractViolation(DEC_SRC_SHORT)`: raised by a call of `decode_uint64` or `decode_uint64_from_string` with fewer
  than 13 symbols (R142, R143). Safe: no transaction has been issued. -/
  | decSrcShort
deriving DecidableEq, Repr

/-- What the spec tells a model to refuse. -/
inductive Refusal where
  /-- An operation that has no meaning yet: raised by `exec` only. Safe. -/
  | notModelled (mnemonic : String)
  /-- Raised by `step` on a position word 13, 14 or 15, which names no position (R48, U17). Safe. -/
  | noSuchPosition
  /-- Raised by BUILD, and by `step` on BUILD's word, for an operand that is not the constant alphabet (R65, U6). Safe. -/
  | illegalAlphabet
  /-- Raised by a call of `decode_uint64` or `decode_uint64_from_string` with more than 13 symbols (R142, U4,
  decision D18). Safe. -/
  | decSrcLong
deriving DecidableEq, Repr

/-- The state after reset (R22, R171, log 15): tables as built, no transaction, all slots `None`, both response strobes 0, response data
unspecified, that is free (log 4). -/
def State.reset : State where
  encRom := []
  decRom := []
  enc := none
  dec := none
  encIn := none
  decIn := none
  encSlots := List.replicate Config.latEnc none
  decSlots := List.replicate Config.latDec none
  encRspStb := false
  encRspSym := Config.idleEncSym 0
  decRspStb := false
  decRspValid := Config.idleDecValid 0
  decRspValue := Config.idleDecValue 0
  inputs := []
  callResult := none
  draw := 1

end Sys2Proof.Machine
end

