-- ==== Sys2Proof/Machine/Memory.lean ====
section
/-! DEFINITION. The two address spaces (R25): what an unlisted address reads as, the canonical form, reading and
writing one entry. -/

namespace Sys2Proof.Machine

/-- The address spaces (R25). There is no other (R34). -/
inductive Space where
  | encRom
  | decRom
deriving DecidableEq, Repr

/-- The number of entries (R11, R12). -/
def Space.size : Space → Nat
  | .encRom => 32
  | .decRom => 256

/-- What an address that is not listed reads as: the table's contents by construction (R28, R29, R22). -/
def Space.unlisted : Space → Nat → Byte
  | .encRom, i => if i < 26 then BitVec.ofNat 8 (0x61 + i) else BitVec.ofNat 8 (0x32 + (i - 26))
  | .decRom, b =>
      if 0x61 ≤ b ∧ b ≤ 0x7A then BitVec.ofNat 8 (b - 0x61)
      else if 0x32 ≤ b ∧ b ≤ 0x37 then BitVec.ofNat 8 (b - 0x32 + 26)
      else Config.sentinel

/-- The listed entry of an address. -/
def Memory.find? : Memory → Nat → Option Byte
  | [], _ => none
  | (k, v) :: m, a => if k = a then some v else Memory.find? m a

/-- One entry of a space. -/
def Memory.read (sp : Space) (m : Memory) (a : Nat) : Byte :=
  (Memory.find? m a).getD (sp.unlisted a)

/-- Take an address off the list. -/
def Memory.erase : Memory → Nat → Memory
  | [], _ => []
  | (k, v) :: m, a => if k = a then m else (k, v) :: Memory.erase m a

/-- List an address with a value, keeping addresses rising. -/
def Memory.insert : Memory → Nat → Byte → Memory
  | [], a, v => [(a, v)]
  | (k, w) :: m, a, v =>
      if a < k then (a, v) :: (k, w) :: m
      else if k = a then (a, v) :: m
      else (k, w) :: Memory.insert m a v

/-- Write one entry: writing what an unlisted address reads as takes the address off the list. Only BUILD
writes (R25). -/
def Memory.write (sp : Space) (m : Memory) (a : Nat) (v : Byte) : Memory :=
  if v = sp.unlisted a then Memory.erase m a else Memory.insert m a v

/-- The canonical form: addresses strictly rising and in the space, no entry equal to what it would read as unlisted. -/
def Memory.wf (sp : Space) : Memory → Bool
  | [] => true
  | (k, v) :: m =>
      decide (k < sp.size) && decide (v ≠ sp.unlisted k) && m.all (fun c => decide (k < c.1)) && Memory.wf sp m

/-- `ENC_ROM[i]` (R26): defined for every address of its type. -/
def readEncRom (m : Memory) (i : Group) : Byte := Memory.read .encRom m i.toNat

/-- `DEC_ROM[b]` (R27): defined for every address of its type. -/
def readDecRom (m : Memory) (b : Byte) : Byte := Memory.read .decRom m b.toNat

end Sys2Proof.Machine
end

