-- ==== Sys2Proof/Machine/Operands.lean ====
section
/-! DEFINITION. How the positions read their operands: the per-position shift tables (R41, R92), the groups of an
integer (R71) and the contributions of the raw lookups (R102). -/

namespace Sys2Proof.Machine

/-- A shift of a 64-bit word by a constant amount; both are logical (00_scope.md section 8). -/
inductive Shift where
  | right (n : Nat)
  | left (n : Nat)
deriving DecidableEq, Repr

def Shift.apply (v : Value) : Shift → Value
  | .right n => v >>> n
  | .left n => v <<< n

/-- Column "encode shift" of R41's table. -/
def encShift : Pos → Shift
  | 0 => .right 59 | 1 => .right 54 | 2 => .right 49 | 3 => .right 44 | 4 => .right 39 | 5 => .right 34
  | 6 => .right 29 | 7 => .right 24 | 8 => .right 19 | 9 => .right 14 | 10 => .right 9 | 11 => .right 4
  | 12 => .left 1

/-- Column "decode shift" of R41's table. -/
def decShift : Pos → Shift
  | 0 => .left 59 | 1 => .left 54 | 2 => .left 49 | 3 => .left 44 | 4 => .left 39 | 5 => .left 34
  | 6 => .left 29 | 7 => .left 24 | 8 => .left 19 | 9 => .left 14 | 10 => .left 9 | 11 => .left 4
  | 12 => .right 1

/-- `grp[p]` of an integer (R71): shift, keep bits [4:0], narrow. Position 0 is masked too, which R85 allows. -/
def groupOf (p : Pos) (v : Value) : Group := (Shift.apply v (encShift p) &&& 0x1f#64).setWidth 5

/-- All 13 groups (R71). -/
def groupsOf (v : Value) : PerPos Group := tab13 fun p => groupOf p v

/-- `c[p]` of a raw lookup (R102, R103 to R115): widened to 64 bits, then shifted within 64 bits. -/
def contribOf (p : Pos) (raw : Byte) : Value := Shift.apply (raw.setWidth 64) (decShift p)

/-- The OR of the 13 contributions (R102). -/
def reconstruct (contrib : PerPos Value) : Value := or13 fun p => contrib[p]

end Sys2Proof.Machine
end

