-- ==== Sys2Proof/Machine/Flags.lean ====
section
/-! DEFINITION. The one flag: `valid`, and the accumulator it is computed from (R17, R116, R117). -/

namespace Sys2Proof.Machine

/-- `acc`: the OR of the 13 raw lookups, before any shift (R116, R118). -/
def accOf (raw : PerPos Byte) : Byte := or13 fun p => raw[p]

/-- `valid`: bits 7, 6 and 5 of the accumulator are all zero (R117). -/
def validOf (acc : Byte) : Bool := decide (acc &&& Config.validityMask = 0)

end Sys2Proof.Machine
end

