-- ==== Sys2Proof/Machine/Ops.lean ====
section
/-! DEFINITION. The named operations the meanings are made of: updates of the state, the two transactions, the two
micro-operations, the table builder, the clock edge, reset, and raising a contract violation. -/

namespace Sys2Proof.Machine

/-- What a step answers. -/
abbrev Result := Host.Outcome State Fault Refusal

/-- Go on with `f` after a next state; a fault or a refusal ends the step. -/
def andThen (o : Result) (f : State → Result) : Result :=
  match o with
  | .next s => f s
  | .fault r => .fault r
  | .refused r => .refused r

/-! ### Updates of the state -/

def State.setEnc (s : State) (t : Option EncTxn) : State := { s with enc := t }
def State.setDec (s : State) (t : Option DecTxn) : State := { s with dec := t }
def State.setEncIn (s : State) (r : Option Symbols) : State := { s with encIn := r }
def State.setDecIn (s : State) (r : Option DecRsp) : State := { s with decIn := r }
def State.setRoms (s : State) (e d : Memory) : State := { s with encRom := e, decRom := d }
def State.setInputs (s : State) (l : List Input) : State := { s with inputs := l }
def State.setCallResult (s : State) (r : Option CallResult) : State := { s with callResult := r }

/-! ### Transactions -/

/-- All named values of an ENC transaction, with the table `rom` (R88): groups, then lookups. -/
def encTransaction (rom : Memory) (v : Value) : EncTxn :=
  let grp := groupsOf v
  { value := v, grp := grp, sym := tab13 fun p => readEncRom rom grp[p] }

/-- All named values of a DEC transaction, with the table `rom` (R123). With `valid = 0` the value is unspecified: the
free value of index `draw` (R121, log 3). -/
def decTransaction (rom : Memory) (draw : Nat) (sym : Symbols) : DecTxn :=
  let raw : PerPos Byte := tab13 fun p => readDecRom rom sym[p]
  let contrib : PerPos Value := tab13 fun p => contribOf p raw[p]
  let acc := accOf raw
  let valid := validOf acc
  { sym := sym, raw := raw, contrib := contrib, acc := acc,
    value := if valid then reconstruct contrib else Config.invalidValue draw sym,
    valid := valid }

/-- The response of a DEC transaction (R46). -/
def DecTxn.rsp (t : DecTxn) : DecRsp := { value := t.value, valid := t.valid }

/-- The encoder answers `v`: its transaction, and the response on its way into the pipeline. A unit takes at most one
request in a cycle (R166), and `step` never gives it two. -/
def State.acceptEnc (s : State) (v : Value) : State :=
  (s.setEnc (some (encTransaction s.encRom v))).setEncIn (some (encTransaction s.encRom v).sym)

/-- The decoder answers `sym`. -/
def State.acceptDec (s : State) (sym : Symbols) : State :=
  (s.setDec (some (decTransaction s.decRom s.draw sym))).setDecIn (some (decTransaction s.decRom s.draw sym).rsp)

/-! ### Micro-operations -/

/-- The encoder's named values as a micro-operation finds them: the transaction's, and, where there is none yet, values
the spec does not give (R15: "has no value"), which are free (log 6). -/
def State.encTxn (s : State) : EncTxn :=
  s.enc.getD
    { value := Config.unwrittenEncValue s.draw, grp := Config.unwrittenGrp s.draw, sym := Config.unwrittenEncSym s.draw }

/-- The decoder's named values as a micro-operation finds them. -/
def State.decTxn (s : State) : DecTxn :=
  s.dec.getD
    { sym := Config.unwrittenDecSym s.draw, raw := Config.unwrittenRaw s.draw, contrib := Config.unwrittenContrib s.draw,
      acc := Config.unwrittenAcc s.draw, value := Config.unwrittenDecValue s.draw,
      valid := Config.unwrittenDecValid s.draw }

/-- ENC.Pp: read `value`, write `grp[p]` (R71, R72 to R84). -/
def State.encPosition (s : State) (p : Pos) : State :=
  s.setEnc (some { s.encTxn with grp := s.encTxn.grp.set p (groupOf p s.encTxn.value) })

/-- DEC.Pp: read `sym[p]`, write `raw[p]` and `c[p]` (R103 to R115). -/
def State.decPosition (s : State) (p : Pos) : State :=
  s.setDec (some { s.decTxn with
    raw := s.decTxn.raw.set p (readDecRom s.decRom s.decTxn.sym[p]),
    contrib := s.decTxn.contrib.set p (contribOf p (readDecRom s.decRom s.decTxn.sym[p])) })

/-! ### The table builder -/

/-- R61's loop: `ENC_ROM[i] <- code(ALPHABET[i])`. -/
def buildEncRom (a : AlphabetBytes) (m : Memory) : Memory :=
  (List.finRange 32).foldl (fun m i => Memory.write .encRom m i.val a[i]) m

/-- R62's first loop: every entry is the sentinel. -/
def clearDecRom (m : Memory) : Memory :=
  (List.range 256).foldl (fun m b => Memory.write .decRom m b Config.sentinel) m

/-- R62's second loop: `DEC_ROM[ENC_ROM[i]] <- i`, with the encode table just built. -/
def invertEncRom (e : Memory) (m : Memory) : Memory :=
  (List.range 32).foldl
    (fun m i => Memory.write .decRom m (readEncRom e (BitVec.ofNat 5 i)).toNat (BitVec.ofNat 8 i)) m

/-- Both tables from an alphabet (R61, R62). -/
def State.buildTables (s : State) (a : AlphabetBytes) : State :=
  let e := buildEncRom a s.encRom
  s.setRoms e (invertEncRom e (clearDecRom s.decRom))

/-! ### Clock and reset -/

/-- One rising edge of a pipeline (R19): slot 0 takes `x`, slot `i + 1` takes slot `i`; the second component is what
drives the response in this cycle, the last slot, or `x` itself where there is no slot (R176: "in the same cycle if
`LAT_U = 0`"). -/
def shiftIn {α : Type} (x : α) : List α → List α × α
  | [] => ([], x)
  | y :: ys => let r := shiftIn y ys; (x :: r.1, r.2)

/-- The clock cycle of both units, after the cycle's requests have been taken (R176). Data lines of a port whose strobe
is 0 are free (R22, U15). The transactions of the cycle are over: their responses go on in the pipelines, their named
values do not survive (R10, R15). -/
def State.clock (s : State) : State :=
  let e := shiftIn s.encIn s.encSlots
  let d := shiftIn s.decIn s.decSlots
  { s with
    enc := none, dec := none, encIn := none, decIn := none, encSlots := e.1, decSlots := d.1,
    encRspStb := e.2.isSome,
    encRspSym := (e.2.map packSym).getD (Config.idleEncSym s.draw),
    decRspStb := d.2.isSome,
    decRspValid := (d.2.map DecRsp.valid).getD (Config.idleDecValid s.draw),
    decRspValue := (d.2.map DecRsp.value).getD (Config.idleDecValue s.draw),
    draw := s.draw + 1 }

/-- A clock cycle with `rst = 1` (R170): nothing is accepted, every slot becomes `None`, both strobes are 0, the tables
are not touched; no transaction is left. -/
def State.resetCycle (s : State) : State :=
  { s with
    enc := none, dec := none, encIn := none, decIn := none,
    encSlots := s.encSlots.map fun _ => none, decSlots := s.decSlots.map fun _ => none,
    encRspStb := false, encRspSym := Config.idleEncSym s.draw,
    decRspStb := false, decRspValid := Config.idleDecValid s.draw, decRspValue := Config.idleDecValue s.draw,
    draw := s.draw + 1 }

/-- `raise ContractViolation(kind)` (R151): the run ends as a fault; there is no trap entry and nothing to return to
(R162, R163). -/
def raiseContractViolation (kind : Fault) : Result := .fault kind

end Sys2Proof.Machine
end

