-- ==== Sys2Proof/Machine/Builder.lean ====
section
/-! DEFINITION. The meaning of BUILD (spec/40_table_build.md). -/

namespace Sys2Proof.Machine

/-- BUILD (R60 to R63): with the constant alphabet it fills both tables and does nothing else; any other operand is
refused (R65: the model "must not define behaviour for one"). -/
def execBuild (alphabet : AlphabetBytes) (s : State) : Result :=
  if alphabet = Config.alphabet then .next (s.buildTables alphabet) else .refused .illegalAlphabet

end Sys2Proof.Machine
end

