-- ==== Sys2Proof/Machine/Decoder.lean ====
section
/-! DEFINITION. The meanings of the decoder's operations: DEC and DEC.P0 to DEC.P12 (spec/42_decode.md). -/

namespace Sys2Proof.Machine

/-- DEC (R123): an invalid symbol gives `valid = 0`, never a fault (R155). -/
def execDec (sym : Symbols) (s : State) : Result := .next (s.acceptDec sym)

/-- DEC.P0 (R103). -/
def execDecP0 (s : State) : Result := .next (s.decPosition 0)

/-- DEC.P1 (R104). -/
def execDecP1 (s : State) : Result := .next (s.decPosition 1)

/-- DEC.P2 (R105). -/
def execDecP2 (s : State) : Result := .next (s.decPosition 2)

/-- DEC.P3 (R106). -/
def execDecP3 (s : State) : Result := .next (s.decPosition 3)

/-- DEC.P4 (R107). -/
def execDecP4 (s : State) : Result := .next (s.decPosition 4)

/-- DEC.P5 (R108). -/
def execDecP5 (s : State) : Result := .next (s.decPosition 5)

/-- DEC.P6 (R109). -/
def execDecP6 (s : State) : Result := .next (s.decPosition 6)

/-- DEC.P7 (R110). -/
def execDecP7 (s : State) : Result := .next (s.decPosition 7)

/-- DEC.P8 (R111). -/
def execDecP8 (s : State) : Result := .next (s.decPosition 8)

/-- DEC.P9 (R112). -/
def execDecP9 (s : State) : Result := .next (s.decPosition 9)

/-- DEC.P10 (R113). -/
def execDecP10 (s : State) : Result := .next (s.decPosition 10)

/-- DEC.P11 (R114). -/
def execDecP11 (s : State) : Result := .next (s.decPosition 11)

/-- DEC.P12 (R115). -/
def execDecP12 (s : State) : Result := .next (s.decPosition 12)

end Sys2Proof.Machine
end

