-- ==== Sys2Proof/Machine/Encoder.lean ====
section
/-! DEFINITION. The meanings of the encoder's operations: ENC and ENC.P0 to ENC.P12 (spec/41_encode.md). -/

namespace Sys2Proof.Machine

/-- ENC (R88): total, no fault on any operand (R89). -/
def execEnc (value : Value) (s : State) : Result := .next (s.acceptEnc value)

/-- ENC.P0 (R72). -/
def execEncP0 (s : State) : Result := .next (s.encPosition 0)

/-- ENC.P1 (R73). -/
def execEncP1 (s : State) : Result := .next (s.encPosition 1)

/-- ENC.P2 (R74). -/
def execEncP2 (s : State) : Result := .next (s.encPosition 2)

/-- ENC.P3 (R75). -/
def execEncP3 (s : State) : Result := .next (s.encPosition 3)

/-- ENC.P4 (R76). -/
def execEncP4 (s : State) : Result := .next (s.encPosition 4)

/-- ENC.P5 (R77). -/
def execEncP5 (s : State) : Result := .next (s.encPosition 5)

/-- ENC.P6 (R78). -/
def execEncP6 (s : State) : Result := .next (s.encPosition 6)

/-- ENC.P7 (R79). -/
def execEncP7 (s : State) : Result := .next (s.encPosition 7)

/-- ENC.P8 (R80). -/
def execEncP8 (s : State) : Result := .next (s.encPosition 8)

/-- ENC.P9 (R81). -/
def execEncP9 (s : State) : Result := .next (s.encPosition 9)

/-- ENC.P10 (R82). -/
def execEncP10 (s : State) : Result := .next (s.encPosition 10)

/-- ENC.P11 (R83). -/
def execEncP11 (s : State) : Result := .next (s.encPosition 11)

/-- ENC.P12 (R84). -/
def execEncP12 (s : State) : Result := .next (s.encPosition 12)

end Sys2Proof.Machine
end

