-- ==== Sys2Proof/Machine/Dispatch.lean ====
section
/-! DEFINITION. Every operation's meaning: one arm per constructor of Instr. -/

namespace Sys2Proof.Machine

def exec (i : Instr) (s : State) : Host.Outcome State Fault Refusal :=
  match i with
  | .enc value => Sys2Proof.Machine.execEnc value s
  | .dec sym => Sys2Proof.Machine.execDec sym s
  | .build alphabet => Sys2Proof.Machine.execBuild alphabet s
  | .encP0 => Sys2Proof.Machine.execEncP0 s
  | .encP1 => Sys2Proof.Machine.execEncP1 s
  | .encP2 => Sys2Proof.Machine.execEncP2 s
  | .encP3 => Sys2Proof.Machine.execEncP3 s
  | .encP4 => Sys2Proof.Machine.execEncP4 s
  | .encP5 => Sys2Proof.Machine.execEncP5 s
  | .encP6 => Sys2Proof.Machine.execEncP6 s
  | .encP7 => Sys2Proof.Machine.execEncP7 s
  | .encP8 => Sys2Proof.Machine.execEncP8 s
  | .encP9 => Sys2Proof.Machine.execEncP9 s
  | .encP10 => Sys2Proof.Machine.execEncP10 s
  | .encP11 => Sys2Proof.Machine.execEncP11 s
  | .encP12 => Sys2Proof.Machine.execEncP12 s
  | .decP0 => Sys2Proof.Machine.execDecP0 s
  | .decP1 => Sys2Proof.Machine.execDecP1 s
  | .decP2 => Sys2Proof.Machine.execDecP2 s
  | .decP3 => Sys2Proof.Machine.execDecP3 s
  | .decP4 => Sys2Proof.Machine.execDecP4 s
  | .decP5 => Sys2Proof.Machine.execDecP5 s
  | .decP6 => Sys2Proof.Machine.execDecP6 s
  | .decP7 => Sys2Proof.Machine.execDecP7 s
  | .decP8 => Sys2Proof.Machine.execDecP8 s
  | .decP9 => Sys2Proof.Machine.execDecP9 s
  | .decP10 => Sys2Proof.Machine.execDecP10 s
  | .decP11 => Sys2Proof.Machine.execDecP11 s
  | .decP12 => Sys2Proof.Machine.execDecP12 s

end Sys2Proof.Machine
end

