-- ==== Sys2Proof/Machine/PublicOps.lean ====
section
/-! DEFINITION. The software-facing operations of spec/43_public_operations.md: the length check, one transaction, the
return (R145). -/

namespace Sys2Proof.Machine

/-- `NOP`: one clock cycle with both request strobes 0 (R54). The request words of such a cycle are read by nothing. -/
def PortCycle.nop : PortCycle := { rst := false, encReqStb := false, encReqValue := 0, decReqStb := false, decReqSym := 0 }

/-- `RST`: one clock cycle with `rst = 1` (R54). -/
def PortCycle.reset : PortCycle := { PortCycle.nop with rst := true }

/-- `ENC v`: one clock cycle with an ENC request (R54, R43). -/
def PortCycle.encRequest (v : Value) : PortCycle := { PortCycle.nop with encReqStb := true, encReqValue := v }

/-- `DEC s`: one clock cycle with a DEC request (R54, R45). -/
def PortCycle.decRequest (w : Bus) : PortCycle := { PortCycle.nop with decReqStb := true, decReqSym := w }

/-- Issue one transaction and wait for its response: the request's cycle, as many further cycles as the unit has slots
(the response comes exactly that many cycles later, R176), then the return. -/
def issueCall (request : PortCycle) (latency : Nat) (c : PendingCall) (s : State) : State :=
  s.setInputs (.cycle request :: (List.replicate latency (.cycle PortCycle.nop) ++ .await c :: s.inputs))

/-- `encode_uint64` (R140): the check precedes everything; a longer buffer is allowed. -/
def callEncode (value : Value) (dst : List Byte) (s : State) : Result :=
  if dst.length < 13 then raiseContractViolation .encDstShort
  else .next (issueCall (PortCycle.encRequest value) s.encSlots.length (.encode dst) s)

/-- The 13 symbols of a list of 13. -/
def symbolsOfList (l : List Byte) : Symbols := tab13 fun p => l.getD p.val 0

/-- `decode_uint64` (R142): fewer than 13 symbols is a contract violation, whatever they are (R158); more than 13 is given
no meaning (U4). -/
def callDecode (src : List Byte) (s : State) : Result :=
  if src.length < 13 then raiseContractViolation .decSrcShort
  else if 13 < src.length then .refused .decSrcLong
  else .next (issueCall (PortCycle.decRequest (packSym (symbolsOfList src))) s.decSlots.length .decode s)

/-- A call begins (R140 to R143). The string-typed operations are the buffer-typed ones: encoding to a string supplies its
own destination of 13 symbols (R141), decoding from a string takes the string's bytes (R143). -/
def beginCall (c : Call) (s : State) : Result :=
  match c with
  | .encodeUint64 value dst => callEncode value dst s
  | .encodeUint64ToString value => callEncode value (List.replicate 13 0) s
  | .decodeUint64 src => callDecode src s
  | .decodeUint64FromString str => callDecode str s

/-- `dst[0..13]` takes the symbols; elements from 13 on keep their values (R140). DESIGN CHOICE (log 12): on a `dst` shorter
than 13, which no call gets past its check with, the result is the 13 symbols. -/
def writeDst (dst : List Byte) (sym : Symbols) : List Byte := sym.toList ++ dst.drop 13

/-- A call returns when the response strobe comes (R145); until then it waits, one clock cycle after another.
DESIGN CHOICE (log 12): the length is checked where the call begins and not again here, so a return given by itself,
without its call, and with a destination shorter than 13 completes with 13 symbols. -/
def finishCall (c : PendingCall) (s : State) : Result :=
  match c with
  | .encode dst =>
      if s.encRspStb then .next (s.setCallResult (some (.encoded (writeDst dst (unpackSym s.encRspSym)))))
      else .next (s.setInputs (.cycle PortCycle.nop :: .await c :: s.inputs))
  | .decode =>
      if s.decRspStb then .next (s.setCallResult (some (.decoded s.decRspValue s.decRspValid)))
      else .next (s.setInputs (.cycle PortCycle.nop :: .await c :: s.inputs))

/-- The error of the other shape of a decode result: no payload (R146, R156). -/
inductive InvalidInput where
  | invalidInput
deriving DecidableEq, Repr

/-- The other shape of a decode result (R146): `Ok(value)` for `valid = 1`, `Err(InvalidInput)` for `valid = 0`. -/
def DecRsp.toExcept (r : DecRsp) : Except InvalidInput Value :=
  if r.valid then .ok r.value else .error .invalidInput

end Sys2Proof.Machine
end

