-- ==== Sys2Proof/Machine/Cycle.lean ====
section
/-! DEFINITION. What each kind of input does: running a request word, a clock cycle, a call. -/

namespace Sys2Proof.Machine

/-- The refusal of a word that is no operation. -/
def Refusal.ofReject : Reject → Refusal
  | .noSuchPosition => .noSuchPosition
  | .illegalAlphabet => .illegalAlphabet

/-- Decode a request word and run the operation it stands for. -/
def runWord (w : RequestWord) (s : State) : Result :=
  match decode w with
  | .ok i => exec i s
  | .error r => .refused (Refusal.ofReject r)

/-- The encoder takes the request of a cycle, if its strobe is 1 (R176). -/
def takeEncReq (c : PortCycle) (s : State) : Result :=
  if c.encReqStb then runWord (.encReq c.encReqValue) s else .next s

/-- The decoder takes the request of a cycle, if its strobe is 1 (R176). -/
def takeDecReq (c : PortCycle) (s : State) : Result :=
  if c.decReqStb then runWord (.decReq c.decReqSym) s else .next s

/-- One clock cycle (R170, R176): in reset nothing is accepted; else each unit takes its request and the clock ticks.
The units are independent, so the order in which the two requests are written here cannot be seen (R174, log 10). -/
def runCycle (c : PortCycle) (s : State) : Result :=
  if c.rst then .next s.resetCycle
  else andThen (takeEncReq c s) fun s1 => andThen (takeDecReq c s1) fun s2 => .next s2.clock

/-- Run one input. -/
def runInput (i : Input) (s : State) : Result :=
  match i with
  | .cycle c => runCycle c s
  | .position u w => runWord (.position u w) s
  | .elaborate w => runWord (.elaboration w) s
  | .call c => beginCall c s
  | .await c => finishCall c s

/-- The input that carries a request word and nothing else. -/
def inputOf : RequestWord → Input
  | .encReq w => .cycle (PortCycle.encRequest w)
  | .decReq w => .cycle (PortCycle.decRequest w)
  | .position u w => .position u w
  | .elaboration w => .elaborate w

end Sys2Proof.Machine
end

