-- ==== Sys2Proof/Machine/Step.lean ====
section
/-! DEFINITION. One step of the machine: the host's next input. -/

namespace Sys2Proof.Machine

/-- The machine runs the oldest of the host's inputs; when the host gives none, the clock runs with both strobes 0 (R54's
`NOP`, R167: an idle unit). -/
def step (s : State) : Host.Outcome State Fault Refusal :=
  match s.inputs with
  | [] => runCycle PortCycle.nop s
  | i :: rest => runInput i (s.setInputs rest)

/-- `s` with the word of the table as the host's next input, so that the next step runs it (log 1, log 9). A width no row
of the table has is no word, and places nothing. -/
def State.withFetchWord (s : State) (nbits w : Nat) : State :=
  match requestOfTable nbits w with
  | some r => s.setInputs (inputOf r :: s.inputs)
  | none => s

end Sys2Proof.Machine
end

