-- ==== Sys2Proof/Safety.lean ====
section
/-! DEFINITION. The terms claims are stated in: legal symbols, the two functions of the codec, safe inputs, the
invariant, and the cycle-level law's own formulas (R176). -/

namespace Sys2Proof.Machine

/-! ### Symbols -/

/-- A legal symbol byte (R49): 0x32..0x37 or 0x61..0x7A. -/
def legalSymbol (b : Byte) : Bool :=
  decide ((0x32 ≤ b.toNat ∧ b.toNat ≤ 0x37) ∨ (0x61 ≤ b.toNat ∧ b.toNat ≤ 0x7A))

/-- Every one of the 13 symbols is legal. -/
abbrev AllLegal (sym : Symbols) : Prop := ∀ p : Pos, legalSymbol sym[p] = true

/-- The alphabet index of the symbol at position `p` (R29, by the table as built). -/
def symIndex (sym : Symbols) (p : Pos) : Nat := (readDecRom [] sym[p]).toNat

/-- A canonical encoded form (R51): legal, and the last symbol has an even index. -/
abbrev Canonical (sym : Symbols) : Prop := AllLegal sym ∧ symIndex sym 12 % 2 = 0

/-! ### The two functions -/

/-- `f_ENC` of R176: the 13 symbols of an integer, by the table as built. -/
def encFn (v : Value) : Symbols := (encTransaction [] v).sym

/-- The raw lookups of 13 symbols, by the table as built (R101). -/
def rawFn (sym : Symbols) : PerPos Byte := tab13 fun p => readDecRom [] sym[p]

/-- `valid` of 13 symbols (R117). -/
def validFn (sym : Symbols) : Bool := validOf (accOf (rawFn sym))

/-- `value` of 13 symbols where `valid = 1` (R102, R120). -/
def valueFn (sym : Symbols) : Value := reconstruct (tab13 fun p => contribOf p (rawFn sym)[p])

/-! ### Standard base32 of bytes, as a reference (R94) -/

/-- The bits of a byte, most significant first. -/
def bitsOfByte (b : Byte) : List Bool := (List.range 8).map fun i => b.getLsbD (7 - i)

/-- The number whose binary digits these are, most significant first. -/
def natOfBits (l : List Bool) : Nat := l.foldl (fun n b => 2 * n + b.toNat) 0

/-- Cut a bit string into fives from the left, the last one filled with zeros; at most `n` of them. -/
def cutFives : Nat → List Bool → List (List Bool)
  | 0, _ => []
  | _, [] => []
  | n + 1, b :: l => ((b :: l).take 5 ++ List.replicate (5 - (b :: l).length) false) :: cutFives n ((b :: l).drop 5)

/-- Unpadded base32 of a byte string with the lowercase alphabet. -/
def stdBase32 (bytes : List Byte) : List Byte :=
  let bits := bytes.flatMap bitsOfByte
  (cutFives bits.length bits).map fun five => Config.symbolCode (Config.alphabetChars.getD (natOfBits five) ' ')

/-- The 8 bytes of an integer, big-endian (R30). -/
def bytesOf (v : Value) : List Byte := (List.range 8).map fun i => v.extractLsb' (56 - 8 * i) 8

/-! ### States -/

/-- Both tables hold what BUILD puts there (R13, R28, R29). -/
abbrev State.TablesBuilt (s : State) : Prop := s.encRom = [] ∧ s.decRom = []

/-- Both tables are in canonical form. -/
abbrev State.MemWf (s : State) : Prop := Memory.wf .encRom s.encRom = true ∧ Memory.wf .decRom s.decRom = true

/-- Nothing is in flight (R181), and no transaction is being computed. -/
abbrev State.Complete (s : State) : Prop :=
  s.enc = none ∧ s.dec = none ∧ s.encIn = none ∧ s.decIn = none ∧ (∀ r ∈ s.encSlots, r = none) ∧ (∀ r ∈ s.decSlots, r = none)

/-- The invariant of the machine between steps: the tables are as built, the pipelines have their lengths and hold
responses only, nothing waits outside the slots, and a response on the encoder's port is an encoded form. -/
structure State.Inv (s : State) : Prop where
  tables : s.TablesBuilt
  encInNone : s.encIn = none
  decInNone : s.decIn = none
  encLatency : s.encSlots.length = Config.latEnc
  decLatency : s.decSlots.length = Config.latDec
  encInFlight : ∀ sym, some sym ∈ s.encSlots → ∃ v, sym = encFn v
  encPort : s.encRspStb = true → ∃ v, s.encRspSym = packSym (encFn v)

/-- `s` with `grp[p]` of the encoder replaced. -/
abbrev State.withGroup (s : State) (p : Pos) (g : Group) : State := 
  s.setEnc (some { s.encTxn with grp := s.encTxn.grp.set p g })

/-- `s` with `raw[p]` and `c[p]` of the decoder replaced. -/
abbrev State.withLookup (s : State) (p : Pos) (raw : Byte) (contrib : Value) : State :=
  s.setDec (some { s.decTxn with raw := s.decTxn.raw.set p raw, contrib := s.decTxn.contrib.set p contrib })

/-- `DEC_ROM`'s entry of the byte that `sym[p]` of the decoder holds (R101). -/
abbrev State.lookedUp (s : State) (p : Pos) : Byte := readDecRom s.decRom s.decTxn.sym[p]

/-- The 64-bit word that has the group `g` in bits `[lo + 4 : lo]` and zeros elsewhere. -/
def FillsField (word : Value) (lo : Nat) (g : Group) : Prop :=
  ∀ j, word.getLsbD j = (decide (lo ≤ j ∧ j < lo + 5) && g.getLsbD (j - lo))

/-- Two states agree on everything the encoder has: its table, values, slots, response port (and the free values to come). -/
structure EncoderAgrees (s t : State) : Prop where
  rom : s.encRom = t.encRom
  txn : s.enc = t.enc
  intake : s.encIn = t.encIn
  slots : s.encSlots = t.encSlots
  stb : s.encRspStb = t.encRspStb
  sym : s.encRspSym = t.encRspSym
  draw : s.draw = t.draw

/-- Two states agree on everything the decoder has. -/
structure DecoderAgrees (s t : State) : Prop where
  rom : s.decRom = t.decRom
  txn : s.dec = t.dec
  intake : s.decIn = t.decIn
  slots : s.decSlots = t.decSlots
  stb : s.decRspStb = t.decRspStb
  valid : s.decRspValid = t.decRspValid
  value : s.decRspValue = t.decRspValue
  draw : s.draw = t.draw

/-! ### Safe inputs -/

/-- A call that meets the length contract and that the spec gives a meaning (R140, R142). -/
def Call.safe : Call → Bool
  | .encodeUint64 _ dst => decide (13 ≤ dst.length)
  | .encodeUint64ToString _ => true
  | .decodeUint64 src => decide (src.length = 13)
  | .decodeUint64FromString s => decide (s.length = 13)

/-- An input the machine has a meaning for: every clock cycle is one. A pending return is one whatever its destination,
since its length was checked where the call began (DESIGN CHOICE, log 12). -/
def Input.safe : Input → Bool
  | .cycle _ => true
  | .position _ w => decide (w.toNat < 13)
  | .elaborate w => decide (unpackAlphabet w = Config.alphabet)
  | .call c => c.safe
  | .await _ => true

/-- A call that violates the contract, with its violation (R151). -/
def Call.violation : Call → Option Fault
  | .encodeUint64 _ dst => if dst.length < 13 then some .encDstShort else none
  | .encodeUint64ToString _ => none
  | .decodeUint64 src => if src.length < 13 then some .decSrcShort else none
  | .decodeUint64FromString s => if s.length < 13 then some .decSrcShort else none

/-! ### The cycle-level law (R176) -/

/-- The port inputs of cycle `n` of a schedule; after its end both strobes are 0. -/
def cycleAt (cs : List PortCycle) (n : Nat) : PortCycle := cs.getD n PortCycle.nop

/-- `accepted_U(n)` of R176, for the unit whose request strobe is `stb`. -/
def accepted (stb : PortCycle → Bool) (cs : List PortCycle) (n : Nat) : Prop :=
  stb (cycleAt cs n) = true ∧ (cycleAt cs n).rst = false

/-- `rsp_stb_U(n) = 1` of R176, for latency `lat`. -/
def responds (stb : PortCycle → Bool) (lat : Nat) (cs : List PortCycle) (n : Nat) : Prop :=
  lat ≤ n ∧ accepted stb cs (n - lat) ∧ ∀ k, n - lat ≤ k → k ≤ n → (cycleAt cs k).rst = false

/-- `n` steps, stopping at the first fault or refusal: the interface's run, at this machine's own types. -/
def runSteps (n : Nat) (s : State) : Result := Sys2Proof.core.run n s

/-- Run operations one after another. -/
def execAll : List Instr → State → Result
  | [], s => .next s
  | i :: is, s => andThen (exec i s) (execAll is)

end Sys2Proof.Machine
end

