-- ==== Sys2Proof/Certificates/Slice0/Obligations.lean ====
section
/-! DEFINITION. The statements for the provers. Each docstring names the rule of spec/ a statement comes from. -/

open Sys2Proof Sys2Proof.Machine

/-- After reset the tables are built, no slot holds a response and both strobes are 0. From 10_state.md section 11
(reset values), 70_reset_and_hazards.md section 1. What the spec leaves unspecified there, and the model's own
fields (log 4, 5, 6), are not stated. -/
def Obligations.ResetLeavesTablesBuiltAndNothingInFlight : Prop :=
  (∀ i : Group, Config.alphabet.toList[i.toNat]? = some (readEncRom State.reset.encRom i)) ∧
  (∀ i : Group, readDecRom State.reset.decRom (readEncRom State.reset.encRom i) = i.setWidth 8) ∧
  (∀ b : Byte, b ∉ Config.alphabet.toList → readDecRom State.reset.decRom b = 0xFF#8) ∧
  State.reset.encSlots = List.replicate Config.latEnc none ∧
  State.reset.decSlots = List.replicate Config.latDec none ∧
  State.reset.encRspStb = false ∧ State.reset.decRspStb = false

/-- ENC_ROM[i] is the byte of the i-th alphabet character. Rules R28. -/
def Obligations.EncRomHoldsTheAlphabetInOrder : Prop :=
  Config.alphabetString = String.ofList Config.alphabetChars ∧ Config.alphabetOk Config.alphabetChars = true ∧
  ∀ (s : State) (i : Group), s.TablesBuilt →
    (Config.alphabetChars.map Config.symbolCode)[i.toNat]? = some (readEncRom s.encRom i) ∧
    (i.toNat ≤ 25 → (readEncRom s.encRom i).toNat = 0x61 + i.toNat) ∧
    (26 ≤ i.toNat → (readEncRom s.encRom i).toNat = 0x32 + (i.toNat - 26))

/-- DEC_ROM[b] is the index of an alphabet byte and 0xFF for every other byte. Rules R29. -/
def Obligations.DecRomInvertsTheAlphabet : Prop :=
  ∀ s : State, s.TablesBuilt →
    (∀ b : Byte,
      (0x32 ≤ b.toNat ∧ b.toNat ≤ 0x37 → (readDecRom s.decRom b).toNat = b.toNat - 0x32 + 26) ∧
      (0x61 ≤ b.toNat ∧ b.toNat ≤ 0x7A → (readDecRom s.decRom b).toNat = b.toNat - 0x61) ∧
      (b.toNat ≤ 0x31 ∨ (0x38 ≤ b.toNat ∧ b.toNat ≤ 0x60) ∨ 0x7B ≤ b.toNat → readDecRom s.decRom b = 0xFF#8)) ∧
    ((List.range 256).filter fun b => readDecRom s.decRom (BitVec.ofNat 8 b) ≠ 0xFF#8).length = 32 ∧
    ∀ i : Group, ((List.range 256).filter fun b => readDecRom s.decRom (BitVec.ofNat 8 b) = i.setWidth 8).length = 1

/-- The two tables are exact inverses over the alphabet; every other byte is invalid. Rules R14. -/
def Obligations.TablesAreExactInverses : Prop :=
  ∀ s : State, s.TablesBuilt →
    (∀ i : Group, readDecRom s.decRom (readEncRom s.encRom i) = i.setWidth 8) ∧
    (∀ b : Byte, readDecRom s.decRom b ≠ Config.sentinel →
      (readDecRom s.decRom b).toNat < 32 ∧ readEncRom s.encRom ((readDecRom s.decRom b).setWidth 5) = b) ∧
    (∀ b : Byte, (∀ i : Group, b ≠ readEncRom s.encRom i) → readDecRom s.decRom b = Config.sentinel)

/-- A few words written out from the spec's encodings decode to their operations. From 30_encoding.md sections 3 and
4, opcode_table.json. -/
def Obligations.WrittenOutWordsDecode : Prop :=
  decode (.encReq 0x0102030405060708#64) = .ok (.enc 0x0102030405060708#64) ∧
  decode (.decReq 0x61656261676261666179647171#104) =
    .ok (.dec #v[0x61, 0x65, 0x62, 0x61, 0x67, 0x62, 0x61, 0x66, 0x61, 0x79, 0x64, 0x71, 0x71]) ∧
  decode (.elaboration 0x6162636465666768696A6B6C6D6E6F707172737475767778797A323334353637#256) =
    .ok (.build Config.alphabet) ∧
  decode (.position .encoder 0b0110#4) = .ok .encP6 ∧ decode (.position .decoder 0b1100#4) = .ok .decP12

/-- Decoding the word of any legal operation gives the operation back. From 30_encoding.md sections 3 and 4,
opcode_table.json. -/
def Obligations.DecodeEncodeRoundTrip : Prop :=
  ∀ i : Instr, i.wf = true → decode (encode i) = .ok i

/-- A word has one meaning: encoding what it decodes to gives the word back. From 30_encoding.md sections 3 and 4,
opcode_table.json. -/
def Obligations.EncodeDecodeRoundTrip : Prop :=
  ∀ (w : RequestWord) (i : Instr), decode w = .ok i → i.wf = true ∧ encode i = w

/-- Position words 13, 14 and 15 name no operation; 0 to 12 do, and every request word does. From 30_encoding.md
section 4. That a position word can be an input of the host, which R48 lets no request do, is the model's choice
(log 7). -/
def Obligations.PositionWordsThirteenToFifteenAreRefused : Prop :=
  (∀ (u : CodecUnit) (w : BitVec 4),
    (13 ≤ w.toNat ↔ decode (.position u w) = .error .noSuchPosition) ∧
    (w.toNat < 13 ↔ ∃ i, decode (.position u w) = .ok i) ∧
    ∀ (s : State) (rest : List Input), s.inputs = .position u w :: rest → 13 ≤ w.toNat →
      step s = .refused .noSuchPosition) ∧
  (∀ w, ∃ v, decode (.encReq w) = .ok (.enc v)) ∧ (∀ w, ∃ x, decode (.decReq w) = .ok (.dec x))

/-- On the 104-bit bus sym[p] is bits [103-8p : 96-8p], and packing loses nothing. Rules R44. -/
def Obligations.BusPacksPositionZeroHighest : Prop :=
  (∀ (x : Symbols) (p : Pos), (packSym x).extractLsb' (96 - 8 * p.val) 8 = x[p]) ∧
  (∀ x : Symbols, unpackSym (packSym x) = x) ∧ (∀ w : Bus, packSym (unpackSym w) = w)

/-- A word of the opcode table decodes by its row's width. From opcode_table.json, 30_encoding.md section 4. The
encoder's is the model's choice where the table gives both units one word (log 9). -/
def Obligations.TableWordsDecodeByWidth : Prop :=
  (∀ w : BitVec 64, decodeTableWord 64 w.toNat = some (.enc w)) ∧
  (∀ w : Bus, decodeTableWord 104 w.toNat = some (.dec (unpackSym w))) ∧
  (∀ w : BitVec 256, decodeTableWord 256 w.toNat =
    if unpackAlphabet w = Config.alphabet then some (.build Config.alphabet) else none) ∧
  (∀ p : Pos, decodeTableWord 8 p.val = some (encPosInstr p)) ∧
  (∀ w, 13 ≤ w → w < 16 → decodeTableWord 8 w = none)

/-- ENC.P0 to ENC.P5 write their group of value and nothing else. Rules R72, R73, R74, R75, R76, R77. With no
transaction begun, the values it finds are free (log 6). -/
def Obligations.EncPositions0To5WriteTheirGroup : Prop :=
  (∀ s : State,
    exec .encP0 s = .next (s.withGroup 0 (s.encTxn.value.extractLsb' 59 5)) ∧
    exec .encP1 s = .next (s.withGroup 1 (s.encTxn.value.extractLsb' 54 5)) ∧
    exec .encP2 s = .next (s.withGroup 2 (s.encTxn.value.extractLsb' 49 5)) ∧
    exec .encP3 s = .next (s.withGroup 3 (s.encTxn.value.extractLsb' 44 5)) ∧
    exec .encP4 s = .next (s.withGroup 4 (s.encTxn.value.extractLsb' 39 5)) ∧
    exec .encP5 s = .next (s.withGroup 5 (s.encTxn.value.extractLsb' 34 5))) ∧
  (∀ v : Value,
    ((v >>> 59) &&& 0x1f#64).setWidth 5 = v.extractLsb' 59 5 ∧
    ((v >>> 54) &&& 0x1f#64).setWidth 5 = v.extractLsb' 54 5 ∧
    ((v >>> 49) &&& 0x1f#64).setWidth 5 = v.extractLsb' 49 5 ∧
    ((v >>> 44) &&& 0x1f#64).setWidth 5 = v.extractLsb' 44 5 ∧
    ((v >>> 39) &&& 0x1f#64).setWidth 5 = v.extractLsb' 39 5 ∧
    ((v >>> 34) &&& 0x1f#64).setWidth 5 = v.extractLsb' 34 5 ∧
    (v >>> 59).setWidth 5 = v.extractLsb' 59 5 ∧ (v >>> 59) &&& 0x1f#64 = v >>> 59 ∧
    (v.toNat < 2 ^ 59 → v.extractLsb' 59 5 = 0#5) ∧
    (0xF800000000000000 ≤ v.toNat → v.extractLsb' 59 5 = 31#5)) ∧
  [(0x0102030405060708#64).extractLsb' 59 5, (0x0102030405060708#64).extractLsb' 54 5, (0x0102030405060708#64).extractLsb' 49 5, (0x0102030405060708#64).extractLsb' 44 5, (0x0102030405060708#64).extractLsb' 39 5, (0x0102030405060708#64).extractLsb' 34 5] = [0#5, 4#5, 1#5, 0#5, 6#5, 1#5] ∧
  [(0xDEADBEEFCAFEBABE#64).extractLsb' 59 5, (0xDEADBEEFCAFEBABE#64).extractLsb' 54 5, (0xDEADBEEFCAFEBABE#64).extractLsb' 49 5, (0xDEADBEEFCAFEBABE#64).extractLsb' 44 5, (0xDEADBEEFCAFEBABE#64).extractLsb' 39 5, (0xDEADBEEFCAFEBABE#64).extractLsb' 34 5] = [27#5, 26#5, 22#5, 27#5, 29#5, 27#5]

/-- ENC.P6 to ENC.P11 write their group of value and nothing else. Rules R78, R79, R80, R81, R82, R83. With no
transaction begun, the values it finds are free (log 6). -/
def Obligations.EncPositions6To11WriteTheirGroup : Prop :=
  (∀ s : State,
    exec .encP6 s = .next (s.withGroup 6 (s.encTxn.value.extractLsb' 29 5)) ∧
    exec .encP7 s = .next (s.withGroup 7 (s.encTxn.value.extractLsb' 24 5)) ∧
    exec .encP8 s = .next (s.withGroup 8 (s.encTxn.value.extractLsb' 19 5)) ∧
    exec .encP9 s = .next (s.withGroup 9 (s.encTxn.value.extractLsb' 14 5)) ∧
    exec .encP10 s = .next (s.withGroup 10 (s.encTxn.value.extractLsb' 9 5)) ∧
    exec .encP11 s = .next (s.withGroup 11 (s.encTxn.value.extractLsb' 4 5))) ∧
  (∀ v : Value,
    ((v >>> 29) &&& 0x1f#64).setWidth 5 = v.extractLsb' 29 5 ∧
    ((v >>> 24) &&& 0x1f#64).setWidth 5 = v.extractLsb' 24 5 ∧
    ((v >>> 19) &&& 0x1f#64).setWidth 5 = v.extractLsb' 19 5 ∧
    ((v >>> 14) &&& 0x1f#64).setWidth 5 = v.extractLsb' 14 5 ∧
    ((v >>> 9) &&& 0x1f#64).setWidth 5 = v.extractLsb' 9 5 ∧
    ((v >>> 4) &&& 0x1f#64).setWidth 5 = v.extractLsb' 4 5 ∧
    v.extractLsb' 29 5 = v.extractLsb' 32 2 ++ v.extractLsb' 29 3) ∧
  [(0x0102030405060708#64).extractLsb' 29 5, (0x0102030405060708#64).extractLsb' 24 5, (0x0102030405060708#64).extractLsb' 19 5, (0x0102030405060708#64).extractLsb' 14 5, (0x0102030405060708#64).extractLsb' 9 5, (0x0102030405060708#64).extractLsb' 4 5] = [0#5, 5#5, 0#5, 24#5, 3#5, 16#5] ∧
  [(0xDEADBEEFCAFEBABE#64).extractLsb' 29 5, (0xDEADBEEFCAFEBABE#64).extractLsb' 24 5, (0xDEADBEEFCAFEBABE#64).extractLsb' 19 5, (0xDEADBEEFCAFEBABE#64).extractLsb' 14 5, (0xDEADBEEFCAFEBABE#64).extractLsb' 9 5, (0xDEADBEEFCAFEBABE#64).extractLsb' 4 5] = [30#5, 10#5, 31#5, 26#5, 29#5, 11#5] ∧
  [(0x0000000100000000#64).extractLsb' 29 5, (0x00000000FFFFFFFF#64).extractLsb' 29 5,
    (0xFFFFFFFF00000000#64).extractLsb' 29 5] = [8#5, 7#5, 24#5] ∧
  [(0x0000000000000010#64).extractLsb' 4 5, (0x00000000000001F0#64).extractLsb' 4 5] = [1#5, 31#5]

/-- ENC.P12 writes value[3:0] followed by the padding zero, and nothing else. Rules R84. With no transaction begun,
the values it finds are free (log 6). -/
def Obligations.EncPosition12WritesTheLowBitsAndThePadding : Prop :=
  (∀ s : State, exec .encP12 s = .next (s.withGroup 12 (s.encTxn.value.extractLsb' 0 4 ++ 0#1))) ∧
  (∀ v : Value, ((v <<< 1) &&& 0x1f#64).setWidth 5 = v.extractLsb' 0 4 ++ 0#1 ∧
    ((v &&& 0xf#64) <<< 1).setWidth 5 = v.extractLsb' 0 4 ++ 0#1 ∧
    (v.extractLsb' 0 4 ++ 0#1).toNat % 2 = 0 ∧
    (v.extractLsb' 0 4 = 0#4 → v.extractLsb' 0 4 ++ 0#1 = 0#5) ∧
    (v.extractLsb' 0 4 = 0xF#4 → v.extractLsb' 0 4 ++ 0#1 = 30#5) ∧
    (v.extractLsb' 0 4 = 0xE#4 → v.extractLsb' 0 4 ++ 0#1 = 28#5)) ∧
  (1#64).extractLsb' 0 4 ++ 0#1 = 2#5 ∧ [readEncRom [] 0, readEncRom [] 30, readEncRom [] 28, readEncRom [] 2] = [0x61#8, 0x36#8, 0x34#8, 0x63#8] ∧
  (0x0102030405060708#64).extractLsb' 0 4 ++ 0#1 = 16#5 ∧ (0xDEADBEEFCAFEBABE#64).extractLsb' 0 4 ++ 0#1 = 28#5

/-- Group p is bits [64-5p : 60-5p] of the 65-bit form value followed by 0. From 30_encoding.md section 1,
41_encode.md section 4 (loop form). -/
def Obligations.GroupsAreTheFieldsOfTheEncodedForm : Prop :=
  ∀ (v : Value) (p : Pos), groupOf p v = (v ++ 0#1 : BitVec 65).extractLsb' (60 - 5 * p.val) 5

/-- ENC always completes: the 13 groups, the 13 lookups, the response, and nothing else. Rules R88, R86. That the
transaction's values and the response stand in the model's state until the clock edge is its choice (log 6, log
13). -/
def Obligations.EncAnswersTheThirteenSymbols : Prop :=
  (∀ (s : State) (v : Value), s.TablesBuilt → ∃ (grp : PerPos Group) (sym : Symbols),
    exec (.enc v) s = .next ((s.setEnc (some ⟨v, grp, sym⟩)).setEncIn (some sym)) ∧
    (∀ p : Pos, p.val ≤ 11 → grp[p] = ((v >>> (59 - 5 * p.val)) &&& 0x1f#64).setWidth 5) ∧
    grp[(12 : Pos)] = ((v <<< 1) &&& 0x1f#64).setWidth 5 ∧
    (∀ p : Pos, sym[p] = readEncRom s.encRom grp[p] ∧ Config.alphabet.toList[grp[p].toNat]? = some sym[p])) ∧
  [readEncRom [] 0, readEncRom [] 24, readEncRom [] 26, readEncRom [] 31] = [0x61#8, 0x79#8, 0x32#8, 0x37#8] ∧
  packSym (encFn 0x0102030405060708#64) = 0x61656261676261666179647171#104

/-- The last symbol of an encoded form has an even index; the other positions take every symbol. From 41_encode.md
section 4. -/
def Obligations.EncOutputEndsInAnEvenSymbol : Prop :=
  (∀ v : Value, Canonical (encFn v)) ∧
  (∀ (p : Pos) (g : Group), p.val ≤ 11 → ∃ v : Value, (encFn v)[p] = readEncRom [] g) ∧
  packSym (encFn 0xFFFFFFFFFFFFFFFF#64) = 0x37373737373737373737373736#104 ∧
  packSym (encFn 0xFFFFFFFFFFFFFFFE#64) = 0x37373737373737373737373734#104

/-- Two integers never share an encoded form, and every canonical form is one. From 41_encode.md section 4. -/
def Obligations.EncIsInjectiveOntoTheCanonicalForms : Prop :=
  (∀ v w : Value, encFn v = encFn w → v = w) ∧
  (∀ x : Symbols, Canonical x ↔ ∃ v : Value, encFn v = x)

/-- ENC gives what unpadded base32 of the eight big-endian bytes gives. From 41_encode.md section 4 (parity),
95_test_vectors.md section 1.3 (P5). -/
def Obligations.EncMatchesStandardBase32 : Prop :=
  ∀ v : Value, (encFn v).toList = stdBase32 (bytesOf v)

/-- DEC.P0 to DEC.P5 write their raw lookup and their contribution and nothing else. Rules R103, R104, R105, R106,
R107, R108. With no transaction begun, the values it finds are free (log 6). -/
def Obligations.DecPositions0To5WriteLookupAndContribution : Prop :=
  (∀ s : State,
    exec .decP0 s = .next (s.withLookup 0 (s.lookedUp 0) ((s.lookedUp 0).setWidth 64 <<< 59)) ∧
    exec .decP1 s = .next (s.withLookup 1 (s.lookedUp 1) ((s.lookedUp 1).setWidth 64 <<< 54)) ∧
    exec .decP2 s = .next (s.withLookup 2 (s.lookedUp 2) ((s.lookedUp 2).setWidth 64 <<< 49)) ∧
    exec .decP3 s = .next (s.withLookup 3 (s.lookedUp 3) ((s.lookedUp 3).setWidth 64 <<< 44)) ∧
    exec .decP4 s = .next (s.withLookup 4 (s.lookedUp 4) ((s.lookedUp 4).setWidth 64 <<< 39)) ∧
    exec .decP5 s = .next (s.withLookup 5 (s.lookedUp 5) ((s.lookedUp 5).setWidth 64 <<< 34))) ∧
  (∀ lo ∈ [59, 54, 49, 44, 39, 34], ∀ r : Byte, r.toNat < 32 → FillsField (r.setWidth 64 <<< lo) lo (r.setWidth 5)) ∧
  [contribOf 0 (readDecRom [] 0x61), contribOf 0 (readDecRom [] 0x33), contribOf 0 (readDecRom [] 0x37),
   contribOf 1 (readDecRom [] 0x65), contribOf 1 (readDecRom [] 0x32), contribOf 2 (readDecRom [] 0x62),
   contribOf 2 (readDecRom [] 0x77), contribOf 3 (readDecRom [] 0x61), contribOf 3 (readDecRom [] 0x33),
   contribOf 4 (readDecRom [] 0x67), contribOf 4 (readDecRom [] 0x35), contribOf 5 (readDecRom [] 0x62),
   contribOf 5 (readDecRom [] 0x33)] =
    [0x0000000000000000, 0xD800000000000000, 0xF800000000000000, 0x0100000000000000, 0x0680000000000000,
     0x0002000000000000, 0x002C000000000000, 0x0000000000000000, 0x0001B00000000000, 0x0000030000000000,
     0x00000E8000000000, 0x0000000400000000, 0x0000006C00000000]

/-- DEC.P6 to DEC.P11 write their raw lookup and their contribution and nothing else. Rules R109, R110, R111, R112,
R113, R114. With no transaction begun, the values it finds are free (log 6). -/
def Obligations.DecPositions6To11WriteLookupAndContribution : Prop :=
  (∀ s : State,
    exec .decP6 s = .next (s.withLookup 6 (s.lookedUp 6) ((s.lookedUp 6).setWidth 64 <<< 29)) ∧
    exec .decP7 s = .next (s.withLookup 7 (s.lookedUp 7) ((s.lookedUp 7).setWidth 64 <<< 24)) ∧
    exec .decP8 s = .next (s.withLookup 8 (s.lookedUp 8) ((s.lookedUp 8).setWidth 64 <<< 19)) ∧
    exec .decP9 s = .next (s.withLookup 9 (s.lookedUp 9) ((s.lookedUp 9).setWidth 64 <<< 14)) ∧
    exec .decP10 s = .next (s.withLookup 10 (s.lookedUp 10) ((s.lookedUp 10).setWidth 64 <<< 9)) ∧
    exec .decP11 s = .next (s.withLookup 11 (s.lookedUp 11) ((s.lookedUp 11).setWidth 64 <<< 4))) ∧
  (∀ lo ∈ [29, 24, 19, 14, 9, 4], ∀ r : Byte, r.toNat < 32 → FillsField (r.setWidth 64 <<< lo) lo (r.setWidth 5)) ∧
  [contribOf 6 (readDecRom [] 0x61), contribOf 6 (readDecRom [] 0x36), contribOf 6 (readDecRom [] 0x69),
   contribOf 7 (readDecRom [] 0x66), contribOf 7 (readDecRom [] 0x6B), contribOf 8 (readDecRom [] 0x61),
   contribOf 8 (readDecRom [] 0x37), contribOf 9 (readDecRom [] 0x79), contribOf 9 (readDecRom [] 0x32),
   contribOf 10 (readDecRom [] 0x64), contribOf 10 (readDecRom [] 0x35), contribOf 11 (readDecRom [] 0x71),
   contribOf 11 (readDecRom [] 0x6C)] =
    [0x0000000000000000, 0x00000003C0000000, 0x0000000100000000, 0x0000000005000000, 0x000000000A000000,
     0x0000000000000000, 0x0000000000F80000, 0x0000000000060000, 0x0000000000068000, 0x0000000000000600,
     0x0000000000003A00, 0x0000000000000100, 0x00000000000000B0]

/-- DEC.P12 writes its raw lookup and its contribution, shifted right by 1, and nothing else. Rules R115. With no
transaction begun, the values it finds are free (log 6). -/
def Obligations.DecPosition12DropsTheLowBit : Prop :=
  (∀ s : State, exec .decP12 s = .next (s.withLookup 12 (s.lookedUp 12) ((s.lookedUp 12).setWidth 64 >>> 1))) ∧
  (∀ r : Byte, r.toNat < 32 → r.setWidth 64 >>> 1 = (r.extractLsb' 1 4).setWidth 64) ∧
  (∀ r : Byte, (r ||| 1#8).setWidth 64 >>> 1 = r.setWidth 64 >>> 1) ∧
  (∀ acc : Byte, validOf (acc ||| 1#8) = validOf acc) ∧
  [contribOf 12 (readDecRom [] 0x61), contribOf 12 (readDecRom [] 0x62), contribOf 12 (readDecRom [] 0x36),
   contribOf 12 (readDecRom [] 0x37), contribOf 12 (readDecRom [] 0x71), contribOf 12 (readDecRom [] 0x72),
   contribOf 12 (readDecRom [] 0x34)] = [0, 0, 0xF, 0xF, 8, 8, 0xE]

/-- DEC always completes: lookups, accumulator, valid, value, the response, and nothing else. Rules R123. That the
transaction's values and the response stand in the model's state until the clock edge is its choice (log 6, log
13). -/
def Obligations.DecAnswersValueAndValid : Prop :=
  (∀ (s : State) (x : Symbols), s.TablesBuilt →
    ∃ (raw : PerPos Byte) (contrib : PerPos Value) (acc : Byte) (value : Value) (valid : Bool),
      exec (.dec x) s =
        .next ((s.setDec (some ⟨x, raw, contrib, acc, value, valid⟩)).setDecIn (some ⟨value, valid⟩)) ∧
      (∀ p : Pos, raw[p] = readDecRom s.decRom x[p]) ∧
      (∀ p : Pos, p.val ≤ 11 → contrib[p] = raw[p].setWidth 64 <<< (59 - 5 * p.val)) ∧
      contrib[(12 : Pos)] = raw[(12 : Pos)].setWidth 64 >>> 1 ∧
      acc = raw[0] ||| raw[1] ||| raw[2] ||| raw[3] ||| raw[4] ||| raw[5] ||| raw[6] ||| raw[7] ||| raw[8] |||
        raw[9] ||| raw[10] ||| raw[11] ||| raw[12] ∧
      (valid = true ↔ acc &&& 0xE0#8 = 0#8) ∧
      (valid = true → value = contrib[0] ||| contrib[1] ||| contrib[2] ||| contrib[3] ||| contrib[4] ||| contrib[5] |||
        contrib[6] ||| contrib[7] ||| contrib[8] ||| contrib[9] ||| contrib[10] ||| contrib[11] ||| contrib[12])) ∧
  (let x := unpackSym 0x61656261676261666179647171#104
   accOf (rawFn x) = 0x1F#8 ∧ validFn x = true ∧ valueFn x = 0x0102030405060708#64) ∧
  (let x := unpackSym 0x31323334353637383930313233#104
   (rawFn x).toList = [0xFF, 0x1A, 0x1B, 0x1C, 0x1D, 0x1E, 0x1F, 0xFF, 0xFF, 0xFF, 0xFF, 0x1A, 0x1B] ∧
   accOf (rawFn x) = 0xFF#8 ∧ validFn x = false)

/-- The OR of the contributions of 13 valid lookups puts each in its field and is their sum. Rules R102. -/
def Obligations.ValidContributionsOccupyDisjointFields : Prop :=
  (∀ raw : PerPos Byte, (∀ p : Pos, raw[p].toNat < 32) →
    let contrib : PerPos Value := tab13 fun p => contribOf p raw[p]
    let value := reconstruct contrib
    (∀ p : Pos, p.val ≤ 11 → value.extractLsb' (59 - 5 * p.val) 5 = raw[p].setWidth 5) ∧
    value.extractLsb' 0 4 = raw[(12 : Pos)].extractLsb' 1 4 ∧
    value.toNat = (contrib.toList.map BitVec.toNat).sum ∧
    (∀ p : Pos, p.val ≤ 11 → contrib[p] = raw[p].setWidth 64 <<< (59 - 5 * p.val)) ∧
    contrib[(12 : Pos)] = raw[(12 : Pos)].setWidth 64 >>> 1) ∧
  contribOf 0 31#8 = 0xF800000000000000#64

/-- valid = 1 iff bits 7 to 5 of acc are zero, iff acc < 32, iff no lookup hit the sentinel. Rules R117. -/
def Obligations.AccumulatorShowsAnySentinel : Prop :=
  (∀ acc : Byte, (validOf acc = true ↔ acc &&& 0xE0#8 = 0#8) ∧ (validOf acc = true ↔ acc.toNat < 32) ∧
    (validOf acc = true ↔ acc.getLsbD 7 = false ∧ acc.getLsbD 6 = false ∧ acc.getLsbD 5 = false)) ∧
  ∀ x : Symbols, ((accOf (rawFn x)).toNat < 32 ∨ accOf (rawFn x) = 0xFF#8) ∧
    (validFn x = true ↔ ∀ p : Pos, (rawFn x)[p] ≠ Config.sentinel)

/-- Any sentinel with a bit in [7:5] is detected by the validity test; no value below 32 is. Rules R119. -/
def Obligations.AnySentinelAboveThirtyOneWouldDo : Prop :=
  Config.sentinel = 0xFF#8 ∧
  ∀ sentinel : Byte,
    (sentinel &&& 0xE0#8 ≠ 0#8 → ∀ raw : PerPos Byte, (∀ p : Pos, raw[p].toNat < 32 ∨ raw[p] = sentinel) →
      (validOf (accOf raw) = true ↔ ∀ p : Pos, raw[p] ≠ sentinel)) ∧
    (sentinel.toNat < 32 → ∀ raw : PerPos Byte, (∀ p : Pos, raw[p].toNat < 32 ∨ raw[p] = sentinel) →
      validOf (accOf raw) = true)

/-- DEC's valid is 1 exactly when all 13 bytes are in the alphabet. Rules R125, R126. -/
def Obligations.ValidIffEverySymbolIsInTheAlphabet : Prop :=
  ∀ (s : State) (x : Symbols), s.TablesBuilt → ∃ t d, exec (.dec x) s = .next t ∧ t.dec = some d ∧
    (d.valid = true ↔ ∀ p : Pos, x[p] ∈ Config.alphabet.toList) ∧ t.decIn = some ⟨d.value, d.valid⟩

/-- 0, 1, 8, 9, uppercase, padding, space, control and high bytes are invalid at any position. Rules R50. -/
def Obligations.NamedInvalidBytesAreRejected : Prop :=
  ∀ (s : State) (x : Symbols) (p : Pos), s.TablesBuilt →
    (x[p] ∈ [0x30#8, 0x31#8, 0x38#8, 0x39#8, 0x3D#8, 0x20#8, 0x7F#8] ∨ (0x41 ≤ x[p].toNat ∧ x[p].toNat ≤ 0x5A) ∨
      x[p].toNat < 0x20 ∨ 0x80 ≤ x[p].toNat) →
    ∃ t d, exec (.dec x) s = .next t ∧ t.dec = some d ∧ d.valid = false

/-- A non-canonical input is accepted and decodes like its canonical partner. Rules R122. -/
def Obligations.DiscardedBitIsIgnored : Prop :=
  (∀ (s : State) (x : Symbols), s.TablesBuilt → AllLegal x → symIndex x 12 % 2 = 1 →
    let y : Symbols := x.set 12 (readEncRom [] (BitVec.ofNat 5 (symIndex x 12 - 1)))
    ∃ t u d e, exec (.dec x) s = .next t ∧ exec (.dec y) s = .next u ∧ t.dec = some d ∧ u.dec = some e ∧
      d.valid = true ∧ e.valid = true ∧ d.value = e.value) ∧
  (validFn (unpackSym 0x61616161616161616161616162#104) = true ∧ valueFn (unpackSym 0x61616161616161616161616162#104) = 0#64 ∧
   validFn (unpackSym 0x61616161616161616161616161#104) = true ∧ valueFn (unpackSym 0x61616161616161616161616161#104) = 0#64) ∧
  (validFn (unpackSym 0x37373737373737373737373737#104) = true ∧
   valueFn (unpackSym 0x37373737373737373737373737#104) = 0xFFFFFFFFFFFFFFFF#64 ∧
   valueFn (unpackSym 0x37373737373737373737373736#104) = 0xFFFFFFFFFFFFFFFF#64)

/-- Round trip: decoding what ENC answered gives the integer back, with valid = 1. From 42_decode.md section 5,
95_test_vectors.md section 1.3 (P1). -/
def Obligations.DecodeOfEncodeIsTheInteger : Prop :=
  ∀ (s : State) (n : Value), s.TablesBuilt →
    ∃ t u sym d, exec (.enc n) s = .next t ∧ t.encIn = some sym ∧ exec (.dec sym) t = .next u ∧ u.dec = some d ∧
      d.valid = true ∧ d.value = n ∧ u.decIn = some ⟨n, true⟩ ∧ decode (.decReq (packSym sym)) = .ok (.dec sym)

/-- Re-encoding a decoded input gives it back iff it is canonical; else its canonical partner. From 42_decode.md
section 5. -/
def Obligations.EncodeOfDecodeNormalises : Prop :=
  (∀ x : Symbols, AllLegal x → validFn x = true ∧ (encFn (valueFn x) = x ↔ Canonical x) ∧
    encFn (valueFn x) = x.set 12 (readEncRom [] (BitVec.ofNat 5 (symIndex x 12 / 2 * 2)))) ∧
  (∀ x y : Symbols, AllLegal x → AllLegal y → (valueFn x = valueFn y ↔
    (∀ p : Pos, p.val ≤ 11 → x[p] = y[p]) ∧ symIndex x 12 / 2 = symIndex y 12 / 2))

/-- The result-type shape of a decode is Ok(value) for valid = 1 and Err(InvalidInput) for valid = 0. Rules R146. -/
def Obligations.ResultShapesAgree : Prop :=
  ∀ (s : State) (x : Symbols), s.TablesBuilt → ∃ (t : State) (r : DecRsp), exec (.dec x) s = .next t ∧ t.decIn = some r ∧
    (r.valid = true → r.toExcept = .ok r.value) ∧ (r.valid = false → r.toExcept = .error .invalidInput) ∧
    (AllLegal x → r.toExcept = .ok (valueFn x)) ∧ (¬ AllLegal x → r.toExcept = .error .invalidInput)

/-- BUILD fills ENC_ROM with the alphabet and DEC_ROM with its inverse, and nothing else changes. Rules R61, R62. -/
def Obligations.BuildFillsBothTables : Prop :=
  ∀ s : State, s.MemWf → ∃ e d : Memory, exec (.build Config.alphabet) s = .next (s.setRoms e d) ∧
    (∀ i : Group, (Config.alphabetChars.map Config.symbolCode)[i.toNat]? = some (readEncRom e i)) ∧
    (∀ i : Group, readDecRom d (readEncRom e i) = i.setWidth 8) ∧
    (∀ b : Byte, (∀ i : Group, b ≠ readEncRom e i) → readDecRom d b = Config.sentinel) ∧
    (s.setRoms e d).TablesBuilt

/-- Running BUILD on tables already built changes nothing at all. From 40_table_build.md (BUILD runs exactly once;
idempotent). Running it at all after elaboration, and the canonical form of its start, are the model's choice
(log 8, log 11). -/
def Obligations.BuildIsIdempotent : Prop :=
  (∀ s : State, s.TablesBuilt → exec (.build Config.alphabet) s = .next s) ∧
  (∀ s t : State, s.MemWf → exec (.build Config.alphabet) s = .next t → exec (.build Config.alphabet) t = .next t)

/-- BUILD with any operand but the constant alphabet is refused, as is its word. From 40_table_build.md,
opcode_table.json (row BUILD). BUILD has no port and no request at run time (R47, R64); that its word can be an
input is the model's choice (log 8). -/
def Obligations.BuildRefusesEveryOtherAlphabet : Prop :=
  (∀ (s : State) (a : AlphabetBytes), a ≠ Config.alphabet → exec (.build a) s = .refused .illegalAlphabet) ∧
  (∀ (s : State) (w : BitVec 256) (rest : List Input), s.inputs = .elaborate w :: rest →
    unpackAlphabet w ≠ Config.alphabet → step s = .refused .illegalAlphabet)

/-- No operation but BUILD writes a table; each unit's operations leave the other unit, slots and ports alone. From
10_state.md sections 2 and 10, 20_memory.md sections 1 and 6. That an operation moves no slot, drives no port
and takes no free value is the model's choice, which leaves all three to the clock edge that follows it, at
latency 0 too (log 5, log 13, log 16). -/
def Obligations.OperationsTouchOnlyTheirOwnUnit : Prop :=
  ∀ (i : Instr) (s t : State), exec i s = .next t →
    ((∀ a, i ≠ .build a) → (∀ g : Group, readEncRom t.encRom g = readEncRom s.encRom g) ∧
      (∀ b : Byte, readDecRom t.decRom b = readDecRom s.decRom b)) ∧
    (((∃ v, i = .enc v) ∨ (∃ p, i = encPosInstr p)) → t.dec = s.dec ∧ t.decIn = s.decIn ∧ t.decRom = s.decRom) ∧
    (((∃ x, i = .dec x) ∨ (∃ p, i = decPosInstr p)) → t.enc = s.enc ∧ t.encIn = s.encIn ∧ t.encRom = s.encRom) ∧
    ((∃ a, i = .build a) → t.enc = s.enc ∧ t.dec = s.dec ∧ t.encIn = s.encIn ∧ t.decIn = s.decIn) ∧
    t.encSlots = s.encSlots ∧ t.decSlots = s.decSlots ∧ t.encRspStb = s.encRspStb ∧ t.encRspSym = s.encRspSym ∧
    t.decRspStb = s.decRspStb ∧ t.decRspValid = s.decRspValid ∧ t.decRspValue = s.decRspValue ∧
    t.inputs = s.inputs ∧ t.callResult = s.callResult ∧ t.draw = s.draw

/-- ENC.P0 to ENC.P12, run in any order, give the groups ENC gives. From 00_scope.md section 5, 41_encode.md section
2. That one position can be run by itself is the model's choice (log 6, log 7). -/
def Obligations.EncoderPositionsInAnyOrderGiveTheGroups : Prop :=
  ∀ (s : State) (l : List Pos), l.Perm (List.finRange 13) →
    ∃ t u d, execAll (l.map encPosInstr) s = .next t ∧ exec (.enc s.encTxn.value) s = .next u ∧ u.enc = some d ∧
      t = s.setEnc (some { s.encTxn with grp := d.grp }) ∧ d.sym = tab13 fun p => readEncRom s.encRom t.encTxn.grp[p]

/-- DEC.P0 to DEC.P12, run in any order, give the lookups and contributions DEC gives. From 00_scope.md section 5,
42_decode.md section 2. That one position can be run by itself is the model's choice (log 6, log 7). -/
def Obligations.DecoderPositionsInAnyOrderGiveTheLookups : Prop :=
  ∀ (s : State) (l : List Pos), l.Perm (List.finRange 13) →
    ∃ t u d, execAll (l.map decPosInstr) s = .next t ∧ exec (.dec s.decTxn.sym) s = .next u ∧ u.dec = some d ∧
      t = s.setDec (some { s.decTxn with raw := d.raw, contrib := d.contrib }) ∧
      d.acc = accOf t.decTxn.raw ∧ (d.valid = true → d.value = reconstruct t.decTxn.contrib)

/-- A step whose input is a legal word runs exactly the operation it decodes to. From 30_encoding.md section 4,
70_reset_and_hazards.md section 3. That a step takes one input of the host, that a position word or BUILD's word
can be one, and that it then runs alone, is the model's choice: R48 and R64 let no request and no port ask for
either (log 1, log 7, log 8). -/
def Obligations.StepRunsTheDecodedOperation : Prop :=
  ∀ (s : State) (w : RequestWord) (rest : List Input), s.inputs = inputOf w :: rest →
    (∀ i, decode w = .ok i →
      step s = match w with
        | .encReq _ | .decReq _ => andThen (exec i (s.setInputs rest)) fun t => .next t.clock
        | .position _ _ | .elaboration _ => exec i (s.setInputs rest)) ∧
    (∀ r, decode w = .error r → step s = .refused (Refusal.ofReject r))

/-- One clock cycle takes the request of each port, then the clock ticks; the order does not matter. From
70_reset_and_hazards.md sections 3 and 4. That the model writes the encoder's request first, and holds the
responses of both until the edge, is its choice (log 10, log 13). -/
def Obligations.CycleServesBothPorts : Prop :=
  ∀ (s : State) (y : PortCycle) (rest : List Input), s.inputs = .cycle y :: rest → y.rst = false →
    let takeEnc (t : State) : State := if y.encReqStb then t.acceptEnc y.encReqValue else t
    let takeDec (t : State) : State := if y.decReqStb then t.acceptDec (unpackSym y.decReqSym) else t
    step s = .next (takeDec (takeEnc (s.setInputs rest))).clock ∧
    takeDec (takeEnc (s.setInputs rest)) = takeEnc (takeDec (s.setInputs rest)) ∧
    (∀ v t, exec (.enc v) t = .next (t.acceptEnc v)) ∧ (∀ x t, exec (.dec x) t = .next (t.acceptDec x))

/-- With no input the clock runs, and an idle machine stays idle. From 30_encoding.md section 7, 60_exceptions.md
section 7. That an empty input list means such a cycle is the model's choice (log 1), and that no named value of
a transaction is left after one is how it keeps R15 (log 6). -/
def Obligations.IdleStepIsANopCycle : Prop :=
  ∀ s : State, s.inputs = [] → step s = .next s.clock ∧
    (s.Complete → s.clock.Complete ∧ s.clock.encRspStb = false ∧ s.clock.decRspStb = false ∧
      s.clock.encRom = s.encRom ∧ s.clock.decRom = s.decRom)

/-- A cycle with rst = 1 accepts nothing, empties every slot, puts both strobes to 0 and keeps the tables. From
70_reset_and_hazards.md section 1 (R170), 10_state.md section 3 (R15). That no named value of a transaction is
left is not in R170 but how the model keeps R15 (log 6), and cycles after a schedule's end are NOP cycles by its
choice (log 1). -/
def Obligations.ResetCycleDropsEverythingInFlight : Prop :=
  ∀ (s : State) (y : PortCycle) (rest : List Input), s.inputs = .cycle y :: rest → y.rst = true →
    ∃ t, step s = .next t ∧ t.Complete ∧ t.encSlots.length = s.encSlots.length ∧ t.decSlots.length = s.decSlots.length ∧
      t.encRspStb = false ∧ t.decRspStb = false ∧ t.encRom = s.encRom ∧ t.decRom = s.decRom ∧
      t.enc = none ∧ t.dec = none ∧ t.inputs = rest ∧ t.callResult = s.callResult ∧
      ∀ (zs : List PortCycle) (n : Nat), (∀ z ∈ zs, z.rst = true ∨ (z.encReqStb = false ∧ z.decReqStb = false)) →
        ∃ u, runSteps n (t.setInputs (zs.map Input.cycle)) = .next u ∧
          u.encRspStb = false ∧ u.decRspStb = false

/-- Each unit answers exactly LAT cycles after an accepted request, unless a reset intervenes, with f of it. From
70_reset_and_hazards.md section 3 (R176), 10_state.md section 9 (R19). Cycles after a schedule's end are NOP
cycles by the model's choice (log 1). -/
def Obligations.ResponsesFollowTheCycleLaw : Prop :=
  (∀ (L M : Nat) (s : State) (cs : List PortCycle) (n : Nat), s.TablesBuilt → s.encIn = none → s.decIn = none →
    s.encSlots = List.replicate L none → s.decSlots = List.replicate M none → s.inputs = cs.map Input.cycle →
    ∃ t, runSteps (n + 1) s = .next t ∧ t.TablesBuilt ∧
      (t.encRspStb = true ↔ responds PortCycle.encReqStb L cs n) ∧
      (t.decRspStb = true ↔ responds PortCycle.decReqStb M cs n) ∧
      (responds PortCycle.encReqStb L cs n → t.encRspSym = packSym (encFn (cycleAt cs (n - L)).encReqValue)) ∧
      (responds PortCycle.decReqStb M cs n →
        t.decRspValid = validFn (unpackSym (cycleAt cs (n - M)).decReqSym) ∧
        (t.decRspValid = true → t.decRspValue = valueFn (unpackSym (cycleAt cs (n - M)).decReqSym)))) ∧
  (∀ (s t : State) (y : PortCycle) (rest : List Input), s.TablesBuilt → s.encIn = none → s.decIn = none →
    s.inputs = .cycle y :: rest → y.rst = false → step s = .next t →
    t.encSlots = ((if y.encReqStb then some (encFn y.encReqValue) else none) :: s.encSlots).dropLast ∧
    t.decSlots.length = s.decSlots.length ∧ (∀ i, i + 1 < s.decSlots.length → t.decSlots[i + 1]? = s.decSlots[i]?) ∧
    (∀ r, t.decSlots[0]? = some r → (r = none ↔ y.decReqStb = false) ∧
      ∀ x, r = some x → x.valid = validFn (unpackSym y.decReqSym) ∧
        (x.valid = true → x.value = valueFn (unpackSym y.decReqSym))))

/-- As many idle cycles as a unit has slots, and at least one, leave nothing in flight. From 70_reset_and_hazards.md
section 3 (end of a run). That an empty input list is such a cycle is the model's choice (log 1), and that the
edge ends a transaction's values is how the model keeps R15 (log 6). -/
def Obligations.RunIsCompleteAfterTheLatency : Prop :=
  ∀ (s : State) (n : Nat), s.inputs = [] → s.encIn = none → s.decIn = none →
    0 < n → s.encSlots.length ≤ n → s.decSlots.length ≤ n →
    ∃ t, runSteps n s = .next t ∧ t.Complete ∧ t.encRom = s.encRom ∧ t.decRom = s.decRom ∧
      t.encSlots.length = s.encSlots.length ∧ t.decSlots.length = s.decSlots.length

/-- What the decoder does never depends on the encoder's requests, nor the other way round. From 10_state.md section
10, 70_reset_and_hazards.md section 4, 60_exceptions.md section 8. That the free values are drawn alike in both
runs, and that cycles after a schedule's end are NOP cycles, is the model's choice (log 5, log 1). -/
def Obligations.UnitsDoNotInfluenceEachOther : Prop :=
  (∀ (s t : State) (cs ds : List PortCycle) (n : Nat), DecoderAgrees s t →
    s.inputs = cs.map Input.cycle → t.inputs = ds.map Input.cycle →
    (∀ k, (cycleAt cs k).rst = (cycleAt ds k).rst ∧ (cycleAt cs k).decReqStb = (cycleAt ds k).decReqStb ∧
      (cycleAt cs k).decReqSym = (cycleAt ds k).decReqSym) →
    ∃ s' t', runSteps n s = .next s' ∧ runSteps n t = .next t' ∧ DecoderAgrees s' t') ∧
  (∀ (s t : State) (cs ds : List PortCycle) (n : Nat), EncoderAgrees s t →
    s.inputs = cs.map Input.cycle → t.inputs = ds.map Input.cycle →
    (∀ k, (cycleAt cs k).rst = (cycleAt ds k).rst ∧ (cycleAt cs k).encReqStb = (cycleAt ds k).encReqStb ∧
      (cycleAt cs k).encReqValue = (cycleAt ds k).encReqValue) →
    ∃ s' t', runSteps n s = .next s' ∧ runSteps n t = .next t' ∧ EncoderAgrees s' t')

/-- A decode of invalid symbols leaves the machine as any other decode does, but for its own response. From
60_exceptions.md section 1. The data lines of a cycle whose strobe is 0 are unspecified (R22, R176); that they
are drawn alike in the two cycles is the model's choice (log 4, log 5), and that the edge ends the named values
is how it keeps R15 (log 6). -/
def Obligations.FailedDecodeChangesOnlyItsResponse : Prop :=
  ∀ (s : State) (y : PortCycle) (w : Bus) (rest : List Input), y.rst = false →
    ∃ t u, step (s.setInputs (.cycle y :: rest)) = .next t ∧
      step (s.setInputs (.cycle { y with decReqSym := w } :: rest)) = .next u ∧
      EncoderAgrees t u ∧ t.decRom = u.decRom ∧ t.dec = u.dec ∧ t.decIn = none ∧ u.decIn = none ∧
      t.decSlots.tail = u.decSlots.tail ∧ t.decSlots.length = u.decSlots.length ∧ t.decRspStb = u.decRspStb ∧
      t.inputs = u.inputs ∧ t.callResult = u.callResult ∧
      (s.decSlots ≠ [] → t.decRspValid = u.decRspValid ∧ t.decRspValue = u.decRspValue)

/-- The state after reset meets the invariant. From 10_state.md section 11, 70_reset_and_hazards.md section 1. How
the model holds the tables, the number of slots and a response before the edge is its choice (log 2, log 11, log
13). -/
def Obligations.ResetMeetsTheInvariant : Prop :=
  State.reset.Inv

/-- Every step keeps the invariant: constant tables, fixed latencies, only encoded forms in flight. From 10_state.md
sections 2, 9 and 10, 41_encode.md section 4. How the model holds the tables, the number of slots and a response
before the edge, and which inputs there are, is its choice (log 1, log 2, log 7, log 8, log 11, log 12, log 13). -/
def Obligations.EveryStepKeepsTheInvariant : Prop :=
  ∀ s t : State, s.Inv → step s = .next t → t.Inv

/-- Every step keeps both tables in canonical form, whatever they hold. From 20_memory.md sections 1 and 6. The
canonical form is the model's own way to hold a table (log 11), and that BUILD's word can be an input is its
choice (log 8). -/
def Obligations.EveryStepKeepsTablesCanonical : Prop :=
  ∀ s t : State, s.MemWf → step s = .next t → t.MemWf ∧
    ((∀ w rest, s.inputs ≠ .elaborate w :: rest) →
      (∀ g : Group, readEncRom t.encRom g = readEncRom s.encRom g) ∧
      (∀ b : Byte, readDecRom t.decRom b = readDecRom s.decRom b))

/-- A step completes exactly when its input is one the model calls safe. From 60_exceptions.md section 1,
93_implementation_defined.md. That a position word alone, BUILD's word and a pending return are inputs at all is
the model's choice: R48 and R64 let no request ask for the first two; a pending return completes whatever its
destination's length, which is checked where the call begins (log 7, log 8, log 12). That a step with no input
left completes, as a NOP cycle, is the model's choice too (log 1). -/
def Obligations.StepCompletesIffTheInputIsSafe : Prop :=
  ∀ s : State, (∃ t, step s = .next t) ↔ ∀ i rest, s.inputs = i :: rest → i.safe = true

/-- A step faults exactly on a call whose destination or input is shorter than 13. From 60_exceptions.md section 1
(R151), 43_public_operations.md (R140, R142, R143). That nothing else faults takes in the model's own input of a
return given without its call, which checks no length: that is the model's choice and not R151's (log 12). -/
def Obligations.OnlyShortBuffersFault : Prop :=
  (∀ (s : State) (r : Fault), step s = .fault r ↔ ∃ y rest, s.inputs = .call y :: rest ∧ y.violation = some r) ∧
  (∀ (i : Instr) (s : State) (r : Fault), exec i s ≠ .fault r)

/-- A step refuses only a position word 13 to 15, another alphabet, or an overlong decode input. From
93_implementation_defined.md (U4, U6, U17). That a position word, BUILD's word and a call can be an input of a
step is the model's choice: R48 and R64 let no request and no port ask for the first two (log 7, log 8, log 12). -/
def Obligations.RefusalsAreTheThreeTheSpecNames : Prop :=
  ∀ (s : State) (r : Refusal), step s = .refused r →
    (r = .noSuchPosition ∧ ∃ u w rest, s.inputs = .position u w :: rest ∧ 13 ≤ w.toNat) ∨
    (r = .illegalAlphabet ∧ ∃ w rest, s.inputs = .elaborate w :: rest ∧ unpackAlphabet w ≠ Config.alphabet) ∨
    (r = .decSrcLong ∧ ∃ src rest, 13 < src.length ∧
      (s.inputs = .call (.decodeUint64 src) :: rest ∨ s.inputs = .call (.decodeUint64FromString src) :: rest))

/-- encode_uint64 writes the 13 symbols into dst[0..13], keeps the rest, and faults on a short dst. From
43_public_operations.md (R140, R145), 41_encode.md section 3 (R88). How many steps a call takes, and that its
result stands in callResult, is the model's choice (log 12). -/
def Obligations.EncodeUint64WritesThirteenSymbols : Prop :=
  (∀ (s : State) (v : Value) (dst : List Byte) (rest : List Input), s.TablesBuilt → s.encIn = none →
    s.inputs = .call (.encodeUint64 v dst) :: rest →
    (dst.length < 13 → step s = .fault .encDstShort) ∧
    (13 ≤ dst.length → ∃ t, runSteps (s.encSlots.length + 3) s = .next t ∧
      t.callResult = some (.encoded ((encFn v).toList ++ dst.drop 13)) ∧ t.inputs = rest ∧ t.TablesBuilt)) ∧
  (encFn 0).toList = List.replicate 13 0x61#8

/-- encode_uint64_to_string returns a fresh 13-character string and cannot fail. From 43_public_operations.md (R141,
R145), 41_encode.md section 3 (R88). How many steps a call takes, and that its result stands in callResult, is
the model's choice (log 12). -/
def Obligations.EncodeToStringGivesThirteenCharacters : Prop :=
  (∀ (s : State) (v : Value) (rest : List Input), s.TablesBuilt → s.encIn = none →
    s.inputs = .call (.encodeUint64ToString v) :: rest →
    ∃ t str, runSteps (s.encSlots.length + 3) s = .next t ∧ t.callResult = some (.encoded str) ∧
      str = (encFn v).toList ∧ str.length = 13 ∧ (∀ b ∈ str, legalSymbol b = true) ∧ t.inputs = rest) ∧
  (encFn 0xFFFFFFFFFFFFFFFF#64).toList =
    [0x37, 0x37, 0x37, 0x37, 0x37, 0x37, 0x37, 0x37, 0x37, 0x37, 0x37, 0x37, 0x36]

/-- decode_uint64, from a buffer or a string: short faults, long is refused, 13 returns (value, valid). From
43_public_operations.md (R142, R143, R145), 60_exceptions.md section 3 (R158). How many steps a call takes, and
that its result stands in callResult, is the model's choice (log 12). -/
def Obligations.DecodeCallsReturnValueAndValid : Prop :=
  (∀ (s : State) (src : List Byte) (rest : List Input) (call : Call),
    call = .decodeUint64 src ∨ call = .decodeUint64FromString src → s.inputs = .call call :: rest →
    (src.length < 13 → step s = .fault .decSrcShort) ∧
    (13 < src.length → step s = .refused .decSrcLong) ∧
    (s.TablesBuilt → s.decIn = none → ∀ x : Symbols, src = x.toList →
      ∃ t value, runSteps (s.decSlots.length + 3) s = .next t ∧
        t.callResult = some (.decoded value (validFn x)) ∧ (validFn x = true → value = valueFn x) ∧
        t.inputs = rest ∧ t.TablesBuilt)) ∧
  (let x := unpackSym 0x61656261676261666179647171#104
   validFn x = true ∧ valueFn x = 0x0102030405060708#64) ∧
  validFn (unpackSym 0x31323334353637383930313233#104) = false

/-- A word of the opcode table placed as the next input is run by the next step. From opcode_table.json,
30_encoding.md section 4. Placing a word as the host's next input is the model's form of fetching (log 1, log
9). -/
def Obligations.TableWordRunsNext : Prop :=
  ∀ (s : State) (nbits w : Nat) (i : Instr), decodeTableWord nbits w = some i →
    step (s.withFetchWord nbits w) =
      if nbits = 64 ∨ nbits = 104 then andThen (exec i s) fun t => .next t.clock else exec i s

/-- No clock cycle remembers a named value of a transaction. From 10_state.md sections 1 and 3 (R10, R15),
70_reset_and_hazards.md section 4 (R174). That a unit can hold such values between two steps at all, and that
cycles after the schedule's end are NOP cycles, is the model's choice (log 6, log 7, log 1). -/
def Obligations.NothingOfATransactionSurvives : Prop :=
  ∀ (s : State) (cs : List PortCycle) (n : Nat), s.inputs = cs.map Input.cycle → 0 < n →
    ∃ t, t.enc = none ∧ t.dec = none ∧
      ∀ (e : Option EncTxn) (d : Option DecTxn), runSteps n ((s.setEnc e).setDec d) = .next t

/-- After a run from reset the state is the after-reset state again. From 70_reset_and_hazards.md section 3 (end of
a run, R181), 10_state.md section 1 (R10). The unspecified data lines and the model's own counter are left out
(log 4, log 5). That the cycles after the schedule's end are the NOP cycles of an empty input list is the
model's choice (log 1), and that no transaction is left after one is how it keeps R15 (log 6). -/
def Obligations.RunEndsInTheAfterResetState : Prop :=
  ∀ (cs : List PortCycle) (n : Nat), cs.length + Config.latEnc < n → cs.length + Config.latDec < n →
    ∃ t, runSteps n (State.reset.setInputs (cs.map Input.cycle)) = .next t ∧
      t.encRom = State.reset.encRom ∧ t.decRom = State.reset.decRom ∧ t.enc = State.reset.enc ∧ t.dec = State.reset.dec ∧
      t.encIn = State.reset.encIn ∧ t.decIn = State.reset.decIn ∧ t.encSlots = State.reset.encSlots ∧
      t.decSlots = State.reset.decSlots ∧ t.encRspStb = State.reset.encRspStb ∧ t.decRspStb = State.reset.decRspStb ∧
      t.inputs = State.reset.inputs ∧ t.callResult = State.reset.callResult
end

