-- ==== Sys2Proof/Laws/Bits.lean ====
section
/-! SUPPORT. Laws of the thirteen positions and of the bit fields: `tab13`, `or13`, the bus. -/

namespace Sys2Proof

@[simp] theorem tab13_getElem {α : Type} (f : Pos → α) (p : Pos) : (tab13 f)[p] = f p := by
  fin_cases p <;> rfl

@[simp] theorem tab13_getElem_nat {α : Type} (f : Pos → α) (i : Nat) (h : i < 13) : (tab13 f)[i] = f ⟨i, h⟩ :=
  tab13_getElem f ⟨i, h⟩

/-- Two arrays that agree at every position are equal. -/
theorem perPos_ext {α : Type} {a b : PerPos α} (h : ∀ p : Pos, a[p] = b[p]) : a = b :=
  Vector.ext fun i hi => h ⟨i, hi⟩

@[simp] theorem tab13_get {α : Type} (a : PerPos α) : (tab13 fun p => a[p]) = a :=
  perPos_ext fun p => by simp

@[simp] theorem tab13_get_nat {α : Type} (a : PerPos α) : (tab13 fun p => a[p.val]) = a := tab13_get a

/-- A statement about thirteen positions, position by position. -/
theorem forall_pos {P : Pos → Prop} :
    (∀ p, P p) ↔ P 0 ∧ P 1 ∧ P 2 ∧ P 3 ∧ P 4 ∧ P 5 ∧ P 6 ∧ P 7 ∧ P 8 ∧ P 9 ∧ P 10 ∧ P 11 ∧ P 12 := by
  constructor
  · intro h; exact ⟨h 0, h 1, h 2, h 3, h 4, h 5, h 6, h 7, h 8, h 9, h 10, h 11, h 12⟩
  · rintro ⟨h0, h1, h2, h3, h4, h5, h6, h7, h8, h9, h10, h11, h12⟩ p
    fin_cases p <;> assumption

/-- A bit of the OR is set exactly where one of the thirteen sets it. -/
theorem or13_getLsbD {w : Nat} (f : Pos → BitVec w) (i : Nat) :
    (or13 f).getLsbD i = true ↔ ∃ p, (f p).getLsbD i = true := by
  constructor
  · intro h
    simp only [or13, BitVec.getLsbD_or, Bool.or_eq_true] at h
    rcases h with ((((((((((((h | h) | h) | h) | h) | h) | h) | h) | h) | h) | h) | h) | h) <;> exact ⟨_, h⟩
  · rintro ⟨p, h⟩
    simp only [or13, BitVec.getLsbD_or, Bool.or_eq_true]
    fin_cases p <;> simp_all

/-- The OR is zero exactly where all thirteen are. -/
theorem or13_eq_zero {w : Nat} (f : Pos → BitVec w) : or13 f = 0#w ↔ ∀ p, f p = 0#w := by
  constructor
  · intro h p
    apply BitVec.eq_of_getLsbD_eq
    intro i _
    by_contra hne
    have hi : (f p).getLsbD i = true := by simpa using hne
    have := (or13_getLsbD f i).2 ⟨p, hi⟩
    simp [h] at this
  · intro h
    simp [or13, h]

/-- `sym[p]` of a packed bus is bits `[103 - 8p : 96 - 8p]` (R44). -/
theorem packSym_field (v : Symbols) (p : Pos) : (packSym v).extractLsb' (symLo p) 8 = v[p] := by
  apply BitVec.eq_of_getLsbD_eq
  intro i hi
  rw [Bool.eq_iff_iff]
  simp only [BitVec.getLsbD_extractLsb', hi, decide_true, Bool.true_and, packSym, or13_getLsbD,
    BitVec.getLsbD_shiftLeft, BitVec.getLsbD_setWidth, Bool.and_eq_true, decide_eq_true_eq, Bool.not_eq_true',
    decide_eq_false_iff_not]
  have hp := p.isLt
  constructor
  · rintro ⟨q, ⟨_, hle⟩, _, hbit⟩
    have hlt : symLo p + i - symLo q < 8 := by
      by_contra hge
      rw [BitVec.getLsbD_of_ge _ _ (by omega)] at hbit
      cases hbit
    have hq := q.isLt
    have : q = p := by simp only [symLo] at hle hlt; apply Fin.ext; omega
    subst this
    rwa [Nat.add_sub_cancel_left] at hbit
  · intro h
    have hlo : symLo p + i < 104 := by simp only [symLo]; omega
    refine ⟨p, ⟨hlo, by omega⟩, by omega, ?_⟩
    rwa [Nat.add_sub_cancel_left]

@[simp] theorem unpackSym_packSym (v : Symbols) : unpackSym (packSym v) = v :=
  perPos_ext fun p => by simp only [unpackSym, tab13_getElem, packSym_field]

end Sys2Proof
end

