-- ==== Sys2Proof/Laws/State.lean ====
section
/-! SUPPORT. Laws of the state's updates: one lemma per field per update. -/

namespace Sys2Proof.Machine

variable (s : State)

/-! ### setEnc -/

@[simp] theorem State.setEnc_encRom (t : Option EncTxn) : (s.setEnc t).encRom = s.encRom := rfl
@[simp] theorem State.setEnc_decRom (t : Option EncTxn) : (s.setEnc t).decRom = s.decRom := rfl
@[simp] theorem State.setEnc_enc (t : Option EncTxn) : (s.setEnc t).enc = t := rfl
@[simp] theorem State.setEnc_dec (t : Option EncTxn) : (s.setEnc t).dec = s.dec := rfl
@[simp] theorem State.setEnc_encIn (t : Option EncTxn) : (s.setEnc t).encIn = s.encIn := rfl
@[simp] theorem State.setEnc_decIn (t : Option EncTxn) : (s.setEnc t).decIn = s.decIn := rfl
@[simp] theorem State.setEnc_encSlots (t : Option EncTxn) : (s.setEnc t).encSlots = s.encSlots := rfl
@[simp] theorem State.setEnc_decSlots (t : Option EncTxn) : (s.setEnc t).decSlots = s.decSlots := rfl
@[simp] theorem State.setEnc_encRspStb (t : Option EncTxn) : (s.setEnc t).encRspStb = s.encRspStb := rfl
@[simp] theorem State.setEnc_encRspSym (t : Option EncTxn) : (s.setEnc t).encRspSym = s.encRspSym := rfl
@[simp] theorem State.setEnc_decRspStb (t : Option EncTxn) : (s.setEnc t).decRspStb = s.decRspStb := rfl
@[simp] theorem State.setEnc_decRspValid (t : Option EncTxn) : (s.setEnc t).decRspValid = s.decRspValid := rfl
@[simp] theorem State.setEnc_decRspValue (t : Option EncTxn) : (s.setEnc t).decRspValue = s.decRspValue := rfl
@[simp] theorem State.setEnc_inputs (t : Option EncTxn) : (s.setEnc t).inputs = s.inputs := rfl
@[simp] theorem State.setEnc_callResult (t : Option EncTxn) : (s.setEnc t).callResult = s.callResult := rfl
@[simp] theorem State.setEnc_draw (t : Option EncTxn) : (s.setEnc t).draw = s.draw := rfl

/-! ### setDec -/

@[simp] theorem State.setDec_encRom (t : Option DecTxn) : (s.setDec t).encRom = s.encRom := rfl
@[simp] theorem State.setDec_decRom (t : Option DecTxn) : (s.setDec t).decRom = s.decRom := rfl
@[simp] theorem State.setDec_enc (t : Option DecTxn) : (s.setDec t).enc = s.enc := rfl
@[simp] theorem State.setDec_dec (t : Option DecTxn) : (s.setDec t).dec = t := rfl
@[simp] theorem State.setDec_encIn (t : Option DecTxn) : (s.setDec t).encIn = s.encIn := rfl
@[simp] theorem State.setDec_decIn (t : Option DecTxn) : (s.setDec t).decIn = s.decIn := rfl
@[simp] theorem State.setDec_encSlots (t : Option DecTxn) : (s.setDec t).encSlots = s.encSlots := rfl
@[simp] theorem State.setDec_decSlots (t : Option DecTxn) : (s.setDec t).decSlots = s.decSlots := rfl
@[simp] theorem State.setDec_encRspStb (t : Option DecTxn) : (s.setDec t).encRspStb = s.encRspStb := rfl
@[simp] theorem State.setDec_encRspSym (t : Option DecTxn) : (s.setDec t).encRspSym = s.encRspSym := rfl
@[simp] theorem State.setDec_decRspStb (t : Option DecTxn) : (s.setDec t).decRspStb = s.decRspStb := rfl
@[simp] theorem State.setDec_decRspValid (t : Option DecTxn) : (s.setDec t).decRspValid = s.decRspValid := rfl
@[simp] theorem State.setDec_decRspValue (t : Option DecTxn) : (s.setDec t).decRspValue = s.decRspValue := rfl
@[simp] theorem State.setDec_inputs (t : Option DecTxn) : (s.setDec t).inputs = s.inputs := rfl
@[simp] theorem State.setDec_callResult (t : Option DecTxn) : (s.setDec t).callResult = s.callResult := rfl
@[simp] theorem State.setDec_draw (t : Option DecTxn) : (s.setDec t).draw = s.draw := rfl

/-! ### setEncIn -/

@[simp] theorem State.setEncIn_encRom (r : Option Symbols) : (s.setEncIn r).encRom = s.encRom := rfl
@[simp] theorem State.setEncIn_decRom (r : Option Symbols) : (s.setEncIn r).decRom = s.decRom := rfl
@[simp] theorem State.setEncIn_enc (r : Option Symbols) : (s.setEncIn r).enc = s.enc := rfl
@[simp] theorem State.setEncIn_dec (r : Option Symbols) : (s.setEncIn r).dec = s.dec := rfl
@[simp] theorem State.setEncIn_encIn (r : Option Symbols) : (s.setEncIn r).encIn = r := rfl
@[simp] theorem State.setEncIn_decIn (r : Option Symbols) : (s.setEncIn r).decIn = s.decIn := rfl
@[simp] theorem State.setEncIn_encSlots (r : Option Symbols) : (s.setEncIn r).encSlots = s.encSlots := rfl
@[simp] theorem State.setEncIn_decSlots (r : Option Symbols) : (s.setEncIn r).decSlots = s.decSlots := rfl
@[simp] theorem State.setEncIn_encRspStb (r : Option Symbols) : (s.setEncIn r).encRspStb = s.encRspStb := rfl
@[simp] theorem State.setEncIn_encRspSym (r : Option Symbols) : (s.setEncIn r).encRspSym = s.encRspSym := rfl
@[simp] theorem State.setEncIn_decRspStb (r : Option Symbols) : (s.setEncIn r).decRspStb = s.decRspStb := rfl
@[simp] theorem State.setEncIn_decRspValid (r : Option Symbols) : (s.setEncIn r).decRspValid = s.decRspValid := rfl
@[simp] theorem State.setEncIn_decRspValue (r : Option Symbols) : (s.setEncIn r).decRspValue = s.decRspValue := rfl
@[simp] theorem State.setEncIn_inputs (r : Option Symbols) : (s.setEncIn r).inputs = s.inputs := rfl
@[simp] theorem State.setEncIn_callResult (r : Option Symbols) : (s.setEncIn r).callResult = s.callResult := rfl
@[simp] theorem State.setEncIn_draw (r : Option Symbols) : (s.setEncIn r).draw = s.draw := rfl

/-! ### setDecIn -/

@[simp] theorem State.setDecIn_encRom (r : Option DecRsp) : (s.setDecIn r).encRom = s.encRom := rfl
@[simp] theorem State.setDecIn_decRom (r : Option DecRsp) : (s.setDecIn r).decRom = s.decRom := rfl
@[simp] theorem State.setDecIn_enc (r : Option DecRsp) : (s.setDecIn r).enc = s.enc := rfl
@[simp] theorem State.setDecIn_dec (r : Option DecRsp) : (s.setDecIn r).dec = s.dec := rfl
@[simp] theorem State.setDecIn_encIn (r : Option DecRsp) : (s.setDecIn r).encIn = s.encIn := rfl
@[simp] theorem State.setDecIn_decIn (r : Option DecRsp) : (s.setDecIn r).decIn = r := rfl
@[simp] theorem State.setDecIn_encSlots (r : Option DecRsp) : (s.setDecIn r).encSlots = s.encSlots := rfl
@[simp] theorem State.setDecIn_decSlots (r : Option DecRsp) : (s.setDecIn r).decSlots = s.decSlots := rfl
@[simp] theorem State.setDecIn_encRspStb (r : Option DecRsp) : (s.setDecIn r).encRspStb = s.encRspStb := rfl
@[simp] theorem State.setDecIn_encRspSym (r : Option DecRsp) : (s.setDecIn r).encRspSym = s.encRspSym := rfl
@[simp] theorem State.setDecIn_decRspStb (r : Option DecRsp) : (s.setDecIn r).decRspStb = s.decRspStb := rfl
@[simp] theorem State.setDecIn_decRspValid (r : Option DecRsp) : (s.setDecIn r).decRspValid = s.decRspValid := rfl
@[simp] theorem State.setDecIn_decRspValue (r : Option DecRsp) : (s.setDecIn r).decRspValue = s.decRspValue := rfl
@[simp] theorem State.setDecIn_inputs (r : Option DecRsp) : (s.setDecIn r).inputs = s.inputs := rfl
@[simp] theorem State.setDecIn_callResult (r : Option DecRsp) : (s.setDecIn r).callResult = s.callResult := rfl
@[simp] theorem State.setDecIn_draw (r : Option DecRsp) : (s.setDecIn r).draw = s.draw := rfl

/-! ### setRoms -/

@[simp] theorem State.setRoms_encRom (e d : Memory) : (s.setRoms e d).encRom = e := rfl
@[simp] theorem State.setRoms_decRom (e d : Memory) : (s.setRoms e d).decRom = d := rfl
@[simp] theorem State.setRoms_enc (e d : Memory) : (s.setRoms e d).enc = s.enc := rfl
@[simp] theorem State.setRoms_dec (e d : Memory) : (s.setRoms e d).dec = s.dec := rfl
@[simp] theorem State.setRoms_encIn (e d : Memory) : (s.setRoms e d).encIn = s.encIn := rfl
@[simp] theorem State.setRoms_decIn (e d : Memory) : (s.setRoms e d).decIn = s.decIn := rfl
@[simp] theorem State.setRoms_encSlots (e d : Memory) : (s.setRoms e d).encSlots = s.encSlots := rfl
@[simp] theorem State.setRoms_decSlots (e d : Memory) : (s.setRoms e d).decSlots = s.decSlots := rfl
@[simp] theorem State.setRoms_encRspStb (e d : Memory) : (s.setRoms e d).encRspStb = s.encRspStb := rfl
@[simp] theorem State.setRoms_encRspSym (e d : Memory) : (s.setRoms e d).encRspSym = s.encRspSym := rfl
@[simp] theorem State.setRoms_decRspStb (e d : Memory) : (s.setRoms e d).decRspStb = s.decRspStb := rfl
@[simp] theorem State.setRoms_decRspValid (e d : Memory) : (s.setRoms e d).decRspValid = s.decRspValid := rfl
@[simp] theorem State.setRoms_decRspValue (e d : Memory) : (s.setRoms e d).decRspValue = s.decRspValue := rfl
@[simp] theorem State.setRoms_inputs (e d : Memory) : (s.setRoms e d).inputs = s.inputs := rfl
@[simp] theorem State.setRoms_callResult (e d : Memory) : (s.setRoms e d).callResult = s.callResult := rfl
@[simp] theorem State.setRoms_draw (e d : Memory) : (s.setRoms e d).draw = s.draw := rfl

/-! ### setInputs -/

@[simp] theorem State.setInputs_encRom (l : List Input) : (s.setInputs l).encRom = s.encRom := rfl
@[simp] theorem State.setInputs_decRom (l : List Input) : (s.setInputs l).decRom = s.decRom := rfl
@[simp] theorem State.setInputs_enc (l : List Input) : (s.setInputs l).enc = s.enc := rfl
@[simp] theorem State.setInputs_dec (l : List Input) : (s.setInputs l).dec = s.dec := rfl
@[simp] theorem State.setInputs_encIn (l : List Input) : (s.setInputs l).encIn = s.encIn := rfl
@[simp] theorem State.setInputs_decIn (l : List Input) : (s.setInputs l).decIn = s.decIn := rfl
@[simp] theorem State.setInputs_encSlots (l : List Input) : (s.setInputs l).encSlots = s.encSlots := rfl
@[simp] theorem State.setInputs_decSlots (l : List Input) : (s.setInputs l).decSlots = s.decSlots := rfl
@[simp] theorem State.setInputs_encRspStb (l : List Input) : (s.setInputs l).encRspStb = s.encRspStb := rfl
@[simp] theorem State.setInputs_encRspSym (l : List Input) : (s.setInputs l).encRspSym = s.encRspSym := rfl
@[simp] theorem State.setInputs_decRspStb (l : List Input) : (s.setInputs l).decRspStb = s.decRspStb := rfl
@[simp] theorem State.setInputs_decRspValid (l : List Input) : (s.setInputs l).decRspValid = s.decRspValid := rfl
@[simp] theorem State.setInputs_decRspValue (l : List Input) : (s.setInputs l).decRspValue = s.decRspValue := rfl
@[simp] theorem State.setInputs_inputs (l : List Input) : (s.setInputs l).inputs = l := rfl
@[simp] theorem State.setInputs_callResult (l : List Input) : (s.setInputs l).callResult = s.callResult := rfl
@[simp] theorem State.setInputs_draw (l : List Input) : (s.setInputs l).draw = s.draw := rfl

/-! ### setCallResult -/

@[simp] theorem State.setCallResult_encRom (r : Option CallResult) : (s.setCallResult r).encRom = s.encRom := rfl
@[simp] theorem State.setCallResult_decRom (r : Option CallResult) : (s.setCallResult r).decRom = s.decRom := rfl
@[simp] theorem State.setCallResult_enc (r : Option CallResult) : (s.setCallResult r).enc = s.enc := rfl
@[simp] theorem State.setCallResult_dec (r : Option CallResult) : (s.setCallResult r).dec = s.dec := rfl
@[simp] theorem State.setCallResult_encIn (r : Option CallResult) : (s.setCallResult r).encIn = s.encIn := rfl
@[simp] theorem State.setCallResult_decIn (r : Option CallResult) : (s.setCallResult r).decIn = s.decIn := rfl
@[simp] theorem State.setCallResult_encSlots (r : Option CallResult) : (s.setCallResult r).encSlots = s.encSlots := rfl
@[simp] theorem State.setCallResult_decSlots (r : Option CallResult) : (s.setCallResult r).decSlots = s.decSlots := rfl
@[simp] theorem State.setCallResult_encRspStb (r : Option CallResult) : (s.setCallResult r).encRspStb = s.encRspStb := rfl
@[simp] theorem State.setCallResult_encRspSym (r : Option CallResult) : (s.setCallResult r).encRspSym = s.encRspSym := rfl
@[simp] theorem State.setCallResult_decRspStb (r : Option CallResult) : (s.setCallResult r).decRspStb = s.decRspStb := rfl
@[simp] theorem State.setCallResult_decRspValid (r : Option CallResult) : (s.setCallResult r).decRspValid = s.decRspValid := rfl
@[simp] theorem State.setCallResult_decRspValue (r : Option CallResult) : (s.setCallResult r).decRspValue = s.decRspValue := rfl
@[simp] theorem State.setCallResult_inputs (r : Option CallResult) : (s.setCallResult r).inputs = s.inputs := rfl
@[simp] theorem State.setCallResult_callResult (r : Option CallResult) : (s.setCallResult r).callResult = r := rfl
@[simp] theorem State.setCallResult_draw (r : Option CallResult) : (s.setCallResult r).draw = s.draw := rfl
@[simp] theorem State.setInputs_setInputs (l m : List Input) : (s.setInputs l).setInputs m = s.setInputs m := rfl

/-! ### clock -/

@[simp] theorem State.clock_encRom : s.clock.encRom = s.encRom := rfl
@[simp] theorem State.clock_decRom : s.clock.decRom = s.decRom := rfl
@[simp] theorem State.clock_inputs : s.clock.inputs = s.inputs := rfl
@[simp] theorem State.clock_callResult : s.clock.callResult = s.callResult := rfl
@[simp] theorem State.clock_enc : s.clock.enc = none := rfl
@[simp] theorem State.clock_dec : s.clock.dec = none := rfl
@[simp] theorem State.clock_encIn : s.clock.encIn = none := rfl
@[simp] theorem State.clock_decIn : s.clock.decIn = none := rfl
@[simp] theorem State.clock_draw : s.clock.draw = s.draw + 1 := rfl

/-! ### resetCycle -/

@[simp] theorem State.resetCycle_encRom : s.resetCycle.encRom = s.encRom := rfl
@[simp] theorem State.resetCycle_decRom : s.resetCycle.decRom = s.decRom := rfl
@[simp] theorem State.resetCycle_inputs : s.resetCycle.inputs = s.inputs := rfl
@[simp] theorem State.resetCycle_callResult : s.resetCycle.callResult = s.callResult := rfl
@[simp] theorem State.resetCycle_enc : s.resetCycle.enc = none := rfl
@[simp] theorem State.resetCycle_dec : s.resetCycle.dec = none := rfl
@[simp] theorem State.resetCycle_encIn : s.resetCycle.encIn = none := rfl
@[simp] theorem State.resetCycle_decIn : s.resetCycle.decIn = none := rfl
@[simp] theorem State.resetCycle_draw : s.resetCycle.draw = s.draw + 1 := rfl
@[simp] theorem State.clock_encSlots : s.clock.encSlots = (shiftIn s.encIn s.encSlots).1 := rfl
@[simp] theorem State.clock_decSlots : s.clock.decSlots = (shiftIn s.decIn s.decSlots).1 := rfl
@[simp] theorem State.clock_encRspStb : s.clock.encRspStb = (shiftIn s.encIn s.encSlots).2.isSome := rfl
@[simp] theorem State.clock_decRspStb : s.clock.decRspStb = (shiftIn s.decIn s.decSlots).2.isSome := rfl
@[simp] theorem State.clock_encRspSym :
    s.clock.encRspSym = ((shiftIn s.encIn s.encSlots).2.map packSym).getD (Config.idleEncSym s.draw) := rfl
@[simp] theorem State.clock_decRspValid :
    s.clock.decRspValid = ((shiftIn s.decIn s.decSlots).2.map DecRsp.valid).getD (Config.idleDecValid s.draw) := rfl
@[simp] theorem State.clock_decRspValue :
    s.clock.decRspValue = ((shiftIn s.decIn s.decSlots).2.map DecRsp.value).getD (Config.idleDecValue s.draw) := rfl
@[simp] theorem State.resetCycle_encSlots : s.resetCycle.encSlots = s.encSlots.map fun _ => none := rfl
@[simp] theorem State.resetCycle_decSlots : s.resetCycle.decSlots = s.decSlots.map fun _ => none := rfl
@[simp] theorem State.resetCycle_encRspStb : s.resetCycle.encRspStb = false := rfl
@[simp] theorem State.resetCycle_decRspStb : s.resetCycle.decRspStb = false := rfl

/-! ### The updates made of them -/

@[simp] theorem State.acceptEnc_enc (v : Value) : (s.acceptEnc v).enc = some (encTransaction s.encRom v) := rfl
@[simp] theorem State.acceptEnc_encIn (v : Value) : (s.acceptEnc v).encIn = some (encTransaction s.encRom v).sym := rfl
@[simp] theorem State.acceptDec_dec (x : Symbols) :
    (s.acceptDec x).dec = some (decTransaction s.decRom s.draw x) := rfl
@[simp] theorem State.acceptDec_decIn (x : Symbols) :
    (s.acceptDec x).decIn = some (decTransaction s.decRom s.draw x).rsp := rfl
@[simp] theorem State.acceptEnc_encRom (v : Value) : (s.acceptEnc v).encRom = s.encRom := rfl
@[simp] theorem State.acceptEnc_decRom (v : Value) : (s.acceptEnc v).decRom = s.decRom := rfl
@[simp] theorem State.acceptEnc_dec (v : Value) : (s.acceptEnc v).dec = s.dec := rfl
@[simp] theorem State.acceptEnc_decIn (v : Value) : (s.acceptEnc v).decIn = s.decIn := rfl
@[simp] theorem State.acceptEnc_encSlots (v : Value) : (s.acceptEnc v).encSlots = s.encSlots := rfl
@[simp] theorem State.acceptEnc_decSlots (v : Value) : (s.acceptEnc v).decSlots = s.decSlots := rfl
@[simp] theorem State.acceptEnc_encRspStb (v : Value) : (s.acceptEnc v).encRspStb = s.encRspStb := rfl
@[simp] theorem State.acceptEnc_encRspSym (v : Value) : (s.acceptEnc v).encRspSym = s.encRspSym := rfl
@[simp] theorem State.acceptEnc_decRspStb (v : Value) : (s.acceptEnc v).decRspStb = s.decRspStb := rfl
@[simp] theorem State.acceptEnc_decRspValid (v : Value) : (s.acceptEnc v).decRspValid = s.decRspValid := rfl
@[simp] theorem State.acceptEnc_decRspValue (v : Value) : (s.acceptEnc v).decRspValue = s.decRspValue := rfl
@[simp] theorem State.acceptEnc_inputs (v : Value) : (s.acceptEnc v).inputs = s.inputs := rfl
@[simp] theorem State.acceptEnc_callResult (v : Value) : (s.acceptEnc v).callResult = s.callResult := rfl
@[simp] theorem State.acceptEnc_draw (v : Value) : (s.acceptEnc v).draw = s.draw := rfl
@[simp] theorem State.acceptDec_encRom (x : Symbols) : (s.acceptDec x).encRom = s.encRom := rfl
@[simp] theorem State.acceptDec_decRom (x : Symbols) : (s.acceptDec x).decRom = s.decRom := rfl
@[simp] theorem State.acceptDec_enc (x : Symbols) : (s.acceptDec x).enc = s.enc := rfl
@[simp] theorem State.acceptDec_encIn (x : Symbols) : (s.acceptDec x).encIn = s.encIn := rfl
@[simp] theorem State.acceptDec_encSlots (x : Symbols) : (s.acceptDec x).encSlots = s.encSlots := rfl
@[simp] theorem State.acceptDec_decSlots (x : Symbols) : (s.acceptDec x).decSlots = s.decSlots := rfl
@[simp] theorem State.acceptDec_encRspStb (x : Symbols) : (s.acceptDec x).encRspStb = s.encRspStb := rfl
@[simp] theorem State.acceptDec_encRspSym (x : Symbols) : (s.acceptDec x).encRspSym = s.encRspSym := rfl
@[simp] theorem State.acceptDec_decRspStb (x : Symbols) : (s.acceptDec x).decRspStb = s.decRspStb := rfl
@[simp] theorem State.acceptDec_decRspValid (x : Symbols) : (s.acceptDec x).decRspValid = s.decRspValid := rfl
@[simp] theorem State.acceptDec_decRspValue (x : Symbols) : (s.acceptDec x).decRspValue = s.decRspValue := rfl
@[simp] theorem State.acceptDec_inputs (x : Symbols) : (s.acceptDec x).inputs = s.inputs := rfl
@[simp] theorem State.acceptDec_callResult (x : Symbols) : (s.acceptDec x).callResult = s.callResult := rfl
@[simp] theorem State.acceptDec_draw (x : Symbols) : (s.acceptDec x).draw = s.draw := rfl
@[simp] theorem State.encPosition_encRom (p : Pos) : (s.encPosition p).encRom = s.encRom := rfl
@[simp] theorem State.encPosition_decRom (p : Pos) : (s.encPosition p).decRom = s.decRom := rfl
@[simp] theorem State.encPosition_dec (p : Pos) : (s.encPosition p).dec = s.dec := rfl
@[simp] theorem State.encPosition_encIn (p : Pos) : (s.encPosition p).encIn = s.encIn := rfl
@[simp] theorem State.encPosition_decIn (p : Pos) : (s.encPosition p).decIn = s.decIn := rfl
@[simp] theorem State.encPosition_encSlots (p : Pos) : (s.encPosition p).encSlots = s.encSlots := rfl
@[simp] theorem State.encPosition_decSlots (p : Pos) : (s.encPosition p).decSlots = s.decSlots := rfl
@[simp] theorem State.encPosition_encRspStb (p : Pos) : (s.encPosition p).encRspStb = s.encRspStb := rfl
@[simp] theorem State.encPosition_encRspSym (p : Pos) : (s.encPosition p).encRspSym = s.encRspSym := rfl
@[simp] theorem State.encPosition_decRspStb (p : Pos) : (s.encPosition p).decRspStb = s.decRspStb := rfl
@[simp] theorem State.encPosition_decRspValid (p : Pos) : (s.encPosition p).decRspValid = s.decRspValid := rfl
@[simp] theorem State.encPosition_decRspValue (p : Pos) : (s.encPosition p).decRspValue = s.decRspValue := rfl
@[simp] theorem State.encPosition_inputs (p : Pos) : (s.encPosition p).inputs = s.inputs := rfl
@[simp] theorem State.encPosition_callResult (p : Pos) : (s.encPosition p).callResult = s.callResult := rfl
@[simp] theorem State.encPosition_draw (p : Pos) : (s.encPosition p).draw = s.draw := rfl
@[simp] theorem State.decPosition_encRom (p : Pos) : (s.decPosition p).encRom = s.encRom := rfl
@[simp] theorem State.decPosition_decRom (p : Pos) : (s.decPosition p).decRom = s.decRom := rfl
@[simp] theorem State.decPosition_enc (p : Pos) : (s.decPosition p).enc = s.enc := rfl
@[simp] theorem State.decPosition_encIn (p : Pos) : (s.decPosition p).encIn = s.encIn := rfl
@[simp] theorem State.decPosition_decIn (p : Pos) : (s.decPosition p).decIn = s.decIn := rfl
@[simp] theorem State.decPosition_encSlots (p : Pos) : (s.decPosition p).encSlots = s.encSlots := rfl
@[simp] theorem State.decPosition_decSlots (p : Pos) : (s.decPosition p).decSlots = s.decSlots := rfl
@[simp] theorem State.decPosition_encRspStb (p : Pos) : (s.decPosition p).encRspStb = s.encRspStb := rfl
@[simp] theorem State.decPosition_encRspSym (p : Pos) : (s.decPosition p).encRspSym = s.encRspSym := rfl
@[simp] theorem State.decPosition_decRspStb (p : Pos) : (s.decPosition p).decRspStb = s.decRspStb := rfl
@[simp] theorem State.decPosition_decRspValid (p : Pos) : (s.decPosition p).decRspValid = s.decRspValid := rfl
@[simp] theorem State.decPosition_decRspValue (p : Pos) : (s.decPosition p).decRspValue = s.decRspValue := rfl
@[simp] theorem State.decPosition_inputs (p : Pos) : (s.decPosition p).inputs = s.inputs := rfl
@[simp] theorem State.decPosition_callResult (p : Pos) : (s.decPosition p).callResult = s.callResult := rfl
@[simp] theorem State.decPosition_draw (p : Pos) : (s.decPosition p).draw = s.draw := rfl
@[simp] theorem State.buildTables_enc (a : AlphabetBytes) : (s.buildTables a).enc = s.enc := rfl
@[simp] theorem State.buildTables_dec (a : AlphabetBytes) : (s.buildTables a).dec = s.dec := rfl
@[simp] theorem State.buildTables_encIn (a : AlphabetBytes) : (s.buildTables a).encIn = s.encIn := rfl
@[simp] theorem State.buildTables_decIn (a : AlphabetBytes) : (s.buildTables a).decIn = s.decIn := rfl
@[simp] theorem State.buildTables_encSlots (a : AlphabetBytes) : (s.buildTables a).encSlots = s.encSlots := rfl
@[simp] theorem State.buildTables_decSlots (a : AlphabetBytes) : (s.buildTables a).decSlots = s.decSlots := rfl
@[simp] theorem State.buildTables_encRspStb (a : AlphabetBytes) : (s.buildTables a).encRspStb = s.encRspStb := rfl
@[simp] theorem State.buildTables_encRspSym (a : AlphabetBytes) : (s.buildTables a).encRspSym = s.encRspSym := rfl
@[simp] theorem State.buildTables_decRspStb (a : AlphabetBytes) : (s.buildTables a).decRspStb = s.decRspStb := rfl
@[simp] theorem State.buildTables_decRspValid (a : AlphabetBytes) : (s.buildTables a).decRspValid = s.decRspValid := rfl
@[simp] theorem State.buildTables_decRspValue (a : AlphabetBytes) : (s.buildTables a).decRspValue = s.decRspValue := rfl
@[simp] theorem State.buildTables_inputs (a : AlphabetBytes) : (s.buildTables a).inputs = s.inputs := rfl
@[simp] theorem State.buildTables_callResult (a : AlphabetBytes) : (s.buildTables a).callResult = s.callResult := rfl
@[simp] theorem State.buildTables_draw (a : AlphabetBytes) : (s.buildTables a).draw = s.draw := rfl
@[simp] theorem State.buildTables_encRom (a : AlphabetBytes) :
    (s.buildTables a).encRom = buildEncRom a s.encRom := rfl
@[simp] theorem State.buildTables_decRom (a : AlphabetBytes) :
    (s.buildTables a).decRom = invertEncRom (buildEncRom a s.encRom) (clearDecRom s.decRom) := rfl

/-! ### The values a micro-operation finds -/

/-- Within a transaction they are the transaction's. -/
theorem State.encTxn_of_some {s : State} {t : EncTxn} (h : s.enc = some t) : s.encTxn = t := by
  simp [State.encTxn, h]

theorem State.decTxn_of_some {s : State} {t : DecTxn} (h : s.dec = some t) : s.decTxn = t := by
  simp [State.decTxn, h]

@[simp] theorem State.setEnc_encTxn (t : EncTxn) : (s.setEnc (some t)).encTxn = t := rfl
@[simp] theorem State.setDec_decTxn (t : DecTxn) : (s.setDec (some t)).decTxn = t := rfl
@[simp] theorem State.acceptEnc_encTxn (v : Value) : (s.acceptEnc v).encTxn = encTransaction s.encRom v := rfl
@[simp] theorem State.acceptDec_decTxn (x : Symbols) :
    (s.acceptDec x).decTxn = decTransaction s.decRom s.draw x := rfl
@[simp] theorem State.encPosition_encTxn (p : Pos) : (s.encPosition p).encTxn =
    { s.encTxn with grp := s.encTxn.grp.set p (groupOf p s.encTxn.value) } := rfl
@[simp] theorem State.decPosition_decTxn (p : Pos) : (s.decPosition p).decTxn =
    { s.decTxn with
      raw := s.decTxn.raw.set p (readDecRom s.decRom s.decTxn.sym[p])
      contrib := s.decTxn.contrib.set p (contribOf p (readDecRom s.decRom s.decTxn.sym[p])) } := rfl
@[simp] theorem State.setDec_encTxn (t : Option DecTxn) : (s.setDec t).encTxn = s.encTxn := rfl
@[simp] theorem State.setEnc_decTxn (t : Option EncTxn) : (s.setEnc t).decTxn = s.decTxn := rfl
@[simp] theorem State.setEncIn_encTxn (r : Option Symbols) : (s.setEncIn r).encTxn = s.encTxn := rfl
@[simp] theorem State.setDecIn_decTxn (r : Option DecRsp) : (s.setDecIn r).decTxn = s.decTxn := rfl
@[simp] theorem State.setInputs_encTxn (l : List Input) : (s.setInputs l).encTxn = s.encTxn := rfl
@[simp] theorem State.setInputs_decTxn (l : List Input) : (s.setInputs l).decTxn = s.decTxn := rfl

end Sys2Proof.Machine
end

