-- ==== Sys2Proof/Laws/Exec.lean ====
section
/-! SUPPORT. What `andThen`, `exec`, each kind of input, `step` and a run can do, said once. -/

namespace Sys2Proof.Machine

/-! ### andThen -/

@[simp] theorem andThen_next (s : State) (f : State → Result) : andThen (.next s) f = f s := rfl
@[simp] theorem andThen_fault (r : Fault) (f : State → Result) : andThen (.fault r) f = .fault r := rfl
@[simp] theorem andThen_refused (r : Refusal) (f : State → Result) : andThen (.refused r) f = .refused r := rfl

/-- `andThen` answers a next state only through one. -/
theorem andThen_eq_next {o : Result} {f : State → Result} {t : State} (h : andThen o f = .next t) :
    ∃ s, o = .next s ∧ f s = .next t := by
  cases o with
  | next s => exact ⟨s, rfl, h⟩
  | fault r => cases h
  | refused r => cases h

/-! ### exec -/

@[simp] theorem exec_enc (v : Value) (s : State) : exec (.enc v) s = .next (s.acceptEnc v) := rfl
@[simp] theorem exec_dec (x : Symbols) (s : State) : exec (.dec x) s = .next (s.acceptDec x) := rfl

theorem exec_build (a : AlphabetBytes) (s : State) :
    exec (.build a) s = if a = Config.alphabet then .next (s.buildTables a) else .refused .illegalAlphabet := rfl

@[simp] theorem exec_encPos (p : Pos) (s : State) : exec (encPosInstr p) s = .next (s.encPosition p) := by
  fin_cases p <;> rfl

@[simp] theorem exec_decPos (p : Pos) (s : State) : exec (decPosInstr p) s = .next (s.decPosition p) := by
  fin_cases p <;> rfl

/-- Everything an operation can be: a request, BUILD, or a micro-operation of one of the units. -/
theorem instr_cases (i : Instr) :
    (∃ v, i = .enc v) ∨ (∃ x, i = .dec x) ∨ (∃ a, i = .build a) ∨
    (∃ p, i = encPosInstr p) ∨ (∃ p, i = decPosInstr p) := by
  cases i with
  | enc v => exact .inl ⟨v, rfl⟩
  | dec x => exact .inr (.inl ⟨x, rfl⟩)
  | build a => exact .inr (.inr (.inl ⟨a, rfl⟩))
  | encP0 => exact .inr (.inr (.inr (.inl ⟨0, rfl⟩)))
  | encP1 => exact .inr (.inr (.inr (.inl ⟨1, rfl⟩)))
  | encP2 => exact .inr (.inr (.inr (.inl ⟨2, rfl⟩)))
  | encP3 => exact .inr (.inr (.inr (.inl ⟨3, rfl⟩)))
  | encP4 => exact .inr (.inr (.inr (.inl ⟨4, rfl⟩)))
  | encP5 => exact .inr (.inr (.inr (.inl ⟨5, rfl⟩)))
  | encP6 => exact .inr (.inr (.inr (.inl ⟨6, rfl⟩)))
  | encP7 => exact .inr (.inr (.inr (.inl ⟨7, rfl⟩)))
  | encP8 => exact .inr (.inr (.inr (.inl ⟨8, rfl⟩)))
  | encP9 => exact .inr (.inr (.inr (.inl ⟨9, rfl⟩)))
  | encP10 => exact .inr (.inr (.inr (.inl ⟨10, rfl⟩)))
  | encP11 => exact .inr (.inr (.inr (.inl ⟨11, rfl⟩)))
  | encP12 => exact .inr (.inr (.inr (.inl ⟨12, rfl⟩)))
  | decP0 => exact .inr (.inr (.inr (.inr ⟨0, rfl⟩)))
  | decP1 => exact .inr (.inr (.inr (.inr ⟨1, rfl⟩)))
  | decP2 => exact .inr (.inr (.inr (.inr ⟨2, rfl⟩)))
  | decP3 => exact .inr (.inr (.inr (.inr ⟨3, rfl⟩)))
  | decP4 => exact .inr (.inr (.inr (.inr ⟨4, rfl⟩)))
  | decP5 => exact .inr (.inr (.inr (.inr ⟨5, rfl⟩)))
  | decP6 => exact .inr (.inr (.inr (.inr ⟨6, rfl⟩)))
  | decP7 => exact .inr (.inr (.inr (.inr ⟨7, rfl⟩)))
  | decP8 => exact .inr (.inr (.inr (.inr ⟨8, rfl⟩)))
  | decP9 => exact .inr (.inr (.inr (.inr ⟨9, rfl⟩)))
  | decP10 => exact .inr (.inr (.inr (.inr ⟨10, rfl⟩)))
  | decP11 => exact .inr (.inr (.inr (.inr ⟨11, rfl⟩)))
  | decP12 => exact .inr (.inr (.inr (.inr ⟨12, rfl⟩)))

/-- Everything an operation can do, when it answers a next state. -/
theorem exec_cases {i : Instr} {s t : State} (h : exec i s = .next t) :
    (∃ v, i = .enc v ∧ t = s.acceptEnc v) ∨ (∃ x, i = .dec x ∧ t = s.acceptDec x) ∨
    (i = .build Config.alphabet ∧ t = s.buildTables Config.alphabet) ∨
    (∃ p, i = encPosInstr p ∧ t = s.encPosition p) ∨ (∃ p, i = decPosInstr p ∧ t = s.decPosition p) := by
  obtain ⟨v, rfl⟩ | ⟨x, rfl⟩ | ⟨a, rfl⟩ | ⟨p, rfl⟩ | ⟨p, rfl⟩ := instr_cases i
  · rw [exec_enc, Host.Outcome.next.injEq] at h
    exact .inl ⟨v, rfl, h.symm⟩
  · rw [exec_dec, Host.Outcome.next.injEq] at h
    exact .inr (.inl ⟨x, rfl, h.symm⟩)
  · rw [exec_build] at h
    split at h
    · next ha =>
      rw [Host.Outcome.next.injEq] at h
      exact .inr (.inr (.inl ⟨congrArg Instr.build ha, ha ▸ h.symm⟩))
    · cases h
  · rw [exec_encPos, Host.Outcome.next.injEq] at h
    exact .inr (.inr (.inr (.inl ⟨p, rfl, h.symm⟩)))
  · rw [exec_decPos, Host.Outcome.next.injEq] at h
    exact .inr (.inr (.inr (.inr ⟨p, rfl, h.symm⟩)))

/-! ### Inputs -/

/-- The encoder's half of a cycle: the request, if there is one. -/
theorem takeEncReq_eq (c : PortCycle) (s : State) :
    takeEncReq c s = .next (if c.encReqStb then s.acceptEnc c.encReqValue else s) := by
  unfold takeEncReq
  split <;> rfl

/-- The decoder's half of a cycle. -/
theorem takeDecReq_eq (c : PortCycle) (s : State) :
    takeDecReq c s = .next (if c.decReqStb then s.acceptDec (unpackSym c.decReqSym) else s) := by
  unfold takeDecReq
  split <;> rfl

/-- Every clock cycle completes, and this is its state. -/
theorem runCycle_eq (c : PortCycle) (s : State) :
    runCycle c s = .next (if c.rst then s.resetCycle else
      (if c.decReqStb then (if c.encReqStb then s.acceptEnc c.encReqValue else s).acceptDec (unpackSym c.decReqSym)
       else (if c.encReqStb then s.acceptEnc c.encReqValue else s)).clock) := by
  unfold runCycle
  split
  · rfl
  · simp only [takeEncReq_eq, takeDecReq_eq, andThen_next]

theorem step_nil {s : State} (h : s.inputs = []) : step s = .next s.clock := by
  unfold step
  simp only [h]
  rfl

theorem step_cons {s : State} {i : Input} {rest : List Input} (h : s.inputs = i :: rest) :
    step s = runInput i (s.setInputs rest) := by
  unfold step
  simp only [h]

/-- A step whose input is a clock cycle runs it. -/
theorem step_cycle {s : State} {c : PortCycle} {rest : List Input} (h : s.inputs = .cycle c :: rest) :
    step s = runCycle c (s.setInputs rest) := step_cons h

/-- Everything a call's start can do. -/
theorem callEncode_eq (v : Value) (dst : List Byte) (s : State) :
    callEncode v dst s = if dst.length < 13 then .fault .encDstShort
      else .next (issueCall (PortCycle.encRequest v) s.encSlots.length (.encode dst) s) := rfl

theorem callDecode_eq (src : List Byte) (s : State) :
    callDecode src s = if src.length < 13 then .fault .decSrcShort else if 13 < src.length then .refused .decSrcLong
      else .next (issueCall (PortCycle.decRequest (packSym (symbolsOfList src))) s.decSlots.length .decode s) := rfl

/-- A call's return always answers a next state. -/
theorem finishCall_next (c : PendingCall) (s : State) : ∃ t, finishCall c s = .next t ∧
    t = (s.setInputs t.inputs).setCallResult t.callResult := by
  cases c with
  | encode dst => unfold finishCall; dsimp only; split <;> exact ⟨_, rfl, rfl⟩
  | decode => unfold finishCall; dsimp only; split <;> exact ⟨_, rfl, rfl⟩

/-- A call whose response has come returns it. -/
theorem finishCall_encode {dst : List Byte} {s : State} (h : s.encRspStb = true) :
    finishCall (.encode dst) s = .next (s.setCallResult (some (.encoded (writeDst dst (unpackSym s.encRspSym))))) :=
  if_pos h

theorem finishCall_decode {s : State} (h : s.decRspStb = true) :
    finishCall .decode s = .next (s.setCallResult (some (.decoded s.decRspValue s.decRspValid))) :=
  if_pos h

/-! ### Runs -/

@[simp] theorem runSteps_zero (s : State) : runSteps 0 s = .next s := rfl

/-- A run is its first step, then the rest of it. -/
theorem runSteps_succ (n : Nat) (s : State) : runSteps (n + 1) s = andThen (step s) (runSteps n) := by
  have h (M : Host.Core) (x : M.State) : M.run (n + 1) x = match M.step x with
      | .next y => M.run n y | .fault r => .fault r | .refused r => .refused r :=
    Host.Core.run.eq_def M (n + 1) x
  refine (h Sys2Proof.core s).trans ?_
  change _ = andThen (Sys2Proof.core.step s) (runSteps n)
  cases Sys2Proof.core.step s <;> rfl

/-- A run of `m + n` steps is a run of `m`, then one of `n`. -/
theorem runSteps_add (m n : Nat) (s : State) : runSteps (m + n) s = andThen (runSteps m s) (runSteps n) := by
  induction m generalizing s with
  | zero => rw [Nat.zero_add, runSteps_zero, andThen_next]
  | succ m ih =>
    rw [Nat.succ_add, runSteps_succ, runSteps_succ m]
    cases step s with
    | next t => exact ih t
    | fault r => rfl
    | refused r => rfl

/-- A run whose first step answers a next state goes on from it. -/
theorem runSteps_succ_of_next {n : Nat} {s t : State} (h : step s = .next t) :
    runSteps (n + 1) s = runSteps n t := by
  rw [runSteps_succ, h, andThen_next]

theorem runSteps_add_of_next {m n : Nat} {s t : State} (h : runSteps m s = .next t) :
    runSteps (m + n) s = runSteps n t := by
  rw [runSteps_add, h, andThen_next]

/-- One more step at the end of a run. -/
theorem runSteps_last_of_next {n : Nat} {s t u : State} (h : runSteps n s = .next t) (hu : step t = .next u) :
    runSteps (n + 1) s = .next u :=
  (runSteps_add_of_next h).trans (runSteps_succ_of_next hu)

end Sys2Proof.Machine
end

