-- ==== Sys2Proof/Laws/Clock.lean ====
section
/-! SUPPORT. Laws of the pipelines: what one edge does to the slots, and what it drives. -/

namespace Sys2Proof.Machine

variable {α : Type}

@[simp] theorem shiftIn_nil (x : α) : shiftIn x [] = ([], x) := rfl

@[simp] theorem shiftIn_cons (x y : α) (l : List α) :
    shiftIn x (y :: l) = (x :: (shiftIn y l).1, (shiftIn y l).2) := rfl

/-- A pipeline keeps its number of slots. -/
@[simp] theorem shiftIn_length (x : α) (l : List α) : (shiftIn x l).1.length = l.length := by
  induction l generalizing x with
  | nil => rfl
  | cons y l ih => simp [ih]

/-- One edge: the slots and the output together are what came in and the old slots, in order. -/
theorem shiftIn_append (x : α) (l : List α) : (shiftIn x l).1 ++ [(shiftIn x l).2] = x :: l := by
  induction l generalizing x with
  | nil => rfl
  | cons y l ih => simp [ih]

/-- What is in the slots after an edge came in at this edge or was in them before. -/
theorem mem_shiftIn {x z : α} {l : List α} (h : z ∈ (shiftIn x l).1) : z = x ∨ z ∈ l := by
  have : z ∈ (shiftIn x l).1 ++ [(shiftIn x l).2] := List.mem_append_left _ h
  rw [shiftIn_append] at this
  exact List.mem_cons.1 this

/-- So did what is driven. -/
theorem shiftIn_snd (x : α) (l : List α) : (shiftIn x l).2 = x ∨ (shiftIn x l).2 ∈ l := by
  have : (shiftIn x l).2 ∈ (shiftIn x l).1 ++ [(shiftIn x l).2] := by simp
  rw [shiftIn_append] at this
  exact List.mem_cons.1 this

/-- A pipeline driven by the slots' last entry: slot `i + 1` takes slot `i` (R19). -/
theorem shiftIn_getElem? (x : α) (l : List α) (i : Nat) (h : i < l.length) :
    (shiftIn x l).1[i]? = (x :: l)[i]? := by
  rw [← shiftIn_append x l, List.getElem?_append_left (by simpa using h)]

end Sys2Proof.Machine
end

