-- ==== Sys2Proof/Laws/Memory.lean ====
section
/-! SUPPORT. Laws of the tables as memories: reading after a write, the canonical form, and that equal contents are
equal data. -/

namespace Sys2Proof.Machine

@[simp] theorem Memory.read_nil (sp : Space) (a : Nat) : Memory.read sp [] a = sp.unlisted a := rfl

/-- The canonical form, one entry at a time. -/
theorem Memory.wf_cons {sp : Space} {k : Nat} {v : Byte} {m : Memory} :
    Memory.wf sp ((k, v) :: m) = true ↔
      k < sp.size ∧ v ≠ sp.unlisted k ∧ (∀ c ∈ m, k < c.1) ∧ Memory.wf sp m = true := by
  simp [Memory.wf, and_assoc]

/-- An address below every listed one is not listed. -/
theorem Memory.find?_of_lt {m : Memory} {a : Nat} (h : ∀ c ∈ m, a < c.1) : Memory.find? m a = none := by
  induction m with
  | nil => rfl
  | cons c m ih =>
    have hc : a < c.1 := h c (by simp)
    simp only [Memory.find?, show ¬ c.1 = a by omega, if_false]
    exact ih fun d hd => h d (by simp [hd])

theorem Memory.find?_insert (m : Memory) (a b : Nat) (v : Byte) :
    Memory.find? (Memory.insert m a v) b = if b = a then some v else Memory.find? m b := by
  induction m with
  | nil => simp [Memory.insert, Memory.find?, eq_comm]
  | cons c m ih =>
    obtain ⟨k, w⟩ := c
    simp only [Memory.insert]
    split
    · simp [Memory.find?, eq_comm]
    · split
      · next h => subst h; simp only [Memory.find?, eq_comm]; split <;> rfl
      · next h =>
        simp only [Memory.find?, ih]
        split
        · next hb => subst hb; simp [h]
        · rfl

theorem Memory.find?_erase {sp : Space} {m : Memory} (h : Memory.wf sp m = true) (a b : Nat) :
    Memory.find? (Memory.erase m a) b = if b = a then none else Memory.find? m b := by
  induction m with
  | nil => simp [Memory.erase, Memory.find?]
  | cons c m ih =>
    obtain ⟨k, w⟩ := c
    obtain ⟨_, _, hlt, hm⟩ := Memory.wf_cons.1 h
    simp only [Memory.erase]
    split
    · next hk =>
      subst hk
      split
      · next hb => subst hb; exact Memory.find?_of_lt hlt
      · next hb => simp [Memory.find?, Ne.symm hb]
    · next hk =>
      simp only [Memory.find?, ih hm]
      split
      · next hb => subst hb; simp [hk]
      · rfl

/-- Reading after a write: the written entry has the value, every other entry is as before. -/
theorem Memory.read_write {sp : Space} {m : Memory} (h : Memory.wf sp m = true) (a b : Nat) (v : Byte) :
    Memory.read sp (Memory.write sp m a v) b = if b = a then v else Memory.read sp m b := by
  unfold Memory.write Memory.read
  split
  · next hv =>
    rw [Memory.find?_erase h]
    split
    · next hb => subst hb; simp [hv]
    · rfl
  · rw [Memory.find?_insert]
    split <;> rfl

theorem Memory.mem_erase {m : Memory} {a : Nat} {c : Host.Cell} (h : c ∈ Memory.erase m a) : c ∈ m := by
  induction m with
  | nil => exact h
  | cons d m ih =>
    obtain ⟨k, w⟩ := d
    simp only [Memory.erase] at h
    split at h
    · exact List.mem_cons_of_mem _ h
    · rcases List.mem_cons.1 h with h | h
      · exact h ▸ List.mem_cons_self
      · exact List.mem_cons_of_mem _ (ih h)

theorem Memory.mem_insert {m : Memory} {a : Nat} {v : Byte} {c : Host.Cell} (h : c ∈ Memory.insert m a v) :
    c = (a, v) ∨ c ∈ m := by
  induction m with
  | nil => simpa [Memory.insert] using h
  | cons d m ih =>
    obtain ⟨k, w⟩ := d
    simp only [Memory.insert] at h
    split at h
    · simpa using h
    · split at h
      · rcases List.mem_cons.1 h with h | h
        · exact .inl h
        · exact .inr (List.mem_cons_of_mem _ h)
      · rcases List.mem_cons.1 h with h | h
        · exact .inr (h ▸ List.mem_cons_self)
        · exact (ih h).imp id (List.mem_cons_of_mem _)

theorem Memory.wf_erase {sp : Space} {m : Memory} (h : Memory.wf sp m = true) (a : Nat) :
    Memory.wf sp (Memory.erase m a) = true := by
  induction m with
  | nil => rfl
  | cons c m ih =>
    obtain ⟨k, w⟩ := c
    obtain ⟨h1, h2, hlt, hm⟩ := Memory.wf_cons.1 h
    simp only [Memory.erase]
    split
    · exact hm
    · exact Memory.wf_cons.2 ⟨h1, h2, fun c hc => hlt c (Memory.mem_erase hc), ih hm⟩

theorem Memory.wf_insert {sp : Space} {m : Memory} (h : Memory.wf sp m = true) {a : Nat} {v : Byte}
    (ha : a < sp.size) (hv : v ≠ sp.unlisted a) : Memory.wf sp (Memory.insert m a v) = true := by
  induction m with
  | nil => exact Memory.wf_cons.2 ⟨ha, hv, by simp, rfl⟩
  | cons c m ih =>
    obtain ⟨k, w⟩ := c
    obtain ⟨h1, h2, hlt, hm⟩ := Memory.wf_cons.1 h
    simp only [Memory.insert]
    split
    · next hak =>
      refine Memory.wf_cons.2 ⟨ha, hv, fun c hc => ?_, h⟩
      rcases List.mem_cons.1 hc with rfl | hc
      · exact hak
      · exact hak.trans (hlt c hc)
    · split
      · next hk => subst hk; exact Memory.wf_cons.2 ⟨ha, hv, hlt, hm⟩
      · next hk =>
        refine Memory.wf_cons.2 ⟨h1, h2, fun c hc => ?_, ih hm⟩
        rcases Memory.mem_insert hc with rfl | hc
        · change k < a; omega
        · exact hlt c hc

/-- A write inside the space keeps the canonical form. -/
theorem Memory.wf_write {sp : Space} {m : Memory} (h : Memory.wf sp m = true) {a : Nat} (v : Byte)
    (ha : a < sp.size) : Memory.wf sp (Memory.write sp m a v) = true := by
  unfold Memory.write
  split
  · exact Memory.wf_erase h a
  · next hv => exact Memory.wf_insert h ha hv

/-- In canonical form, an entry that reads as unlisted everywhere leaves nothing listed. -/
theorem Memory.eq_nil_of_read {sp : Space} {m : Memory} (h : Memory.wf sp m = true)
    (hr : ∀ a < sp.size, Memory.read sp m a = sp.unlisted a) : m = [] := by
  cases m with
  | nil => rfl
  | cons c m =>
    obtain ⟨k, w⟩ := c
    obtain ⟨h1, h2, _, _⟩ := Memory.wf_cons.1 h
    exact absurd (by simpa [Memory.read, Memory.find?] using hr k h1) h2

/-- Equal contents are equal data. -/
theorem Memory.ext_of_read {sp : Space} {m n : Memory} (hm : Memory.wf sp m = true) (hn : Memory.wf sp n = true)
    (h : ∀ a, Memory.read sp m a = Memory.read sp n a) : m = n := by
  induction m generalizing n with
  | nil => exact (Memory.eq_nil_of_read hn fun a _ => (h a).symm).symm
  | cons c m ih =>
    obtain ⟨k, w⟩ := c
    obtain ⟨h1, h2, hlt, hm'⟩ := Memory.wf_cons.1 hm
    cases n with
    | nil => exact Memory.eq_nil_of_read hm fun a _ => h a
    | cons d n =>
      obtain ⟨l, x⟩ := d
      obtain ⟨g1, g2, glt, hn'⟩ := Memory.wf_cons.1 hn
      have hk : k = l := by
        rcases Nat.lt_trichotomy k l with hkl | hkl | hkl
        · have e := h k
          have e' : Memory.find? ((l, x) :: n) k = none := Memory.find?_of_lt fun c hc => by
            rcases List.mem_cons.1 hc with rfl | hc
            · exact hkl
            · exact hkl.trans (glt c hc)
          simp only [Memory.read, e'] at e
          exact absurd (by simpa [Memory.find?] using e) h2
        · exact hkl
        · have e := h l
          have e' : Memory.find? ((k, w) :: m) l = none := Memory.find?_of_lt fun c hc => by
            rcases List.mem_cons.1 hc with rfl | hc
            · exact hkl
            · exact hkl.trans (hlt c hc)
          simp only [Memory.read, e'] at e
          exact absurd (by simpa [Memory.find?] using e.symm) g2
      subst hk
      have hw : w = x := by simpa [Memory.read, Memory.find?] using h k
      subst hw
      rw [ih hm' hn' fun a => ?_]
      by_cases hka : k = a
      · subst hka
        rw [Memory.read, Memory.read, Memory.find?_of_lt hlt, Memory.find?_of_lt glt]
      · simpa [Memory.read, Memory.find?, hka] using h a

/-- Reset's tables are in canonical form, and are as built. -/
theorem State.reset_memWf : State.reset.MemWf := ⟨rfl, rfl⟩

/-- Tables as built are in canonical form. -/
theorem State.TablesBuilt.memWf {s : State} (h : s.TablesBuilt) : s.MemWf := by
  unfold State.MemWf
  rw [h.1, h.2]
  exact ⟨rfl, rfl⟩

/-! ### The builder's writes keep the canonical form -/

/-- A run of writes, each inside the space, keeps the canonical form. -/
theorem Memory.wf_foldl_write {α : Type} {sp : Space} (l : List α) (addr : α → Nat) (val : α → Byte)
    (hin : ∀ x ∈ l, addr x < sp.size) {m : Memory} (h : Memory.wf sp m = true) :
    Memory.wf sp (l.foldl (fun m x => Memory.write sp m (addr x) (val x)) m) = true := by
  induction l generalizing m with
  | nil => exact h
  | cons x l ih =>
    exact ih (fun y hy => hin y (List.mem_cons_of_mem _ hy)) (Memory.wf_write h _ (hin x List.mem_cons_self))

/-- An address no write of the run goes to reads as before. -/
theorem Memory.read_foldl_write_of_ne {α : Type} {sp : Space} (l : List α) (addr : α → Nat) (val : α → Byte)
    (hin : ∀ x ∈ l, addr x < sp.size) {m : Memory} (h : Memory.wf sp m = true) {a : Nat} (ha : ∀ x ∈ l, addr x ≠ a) :
    Memory.read sp (l.foldl (fun m x => Memory.write sp m (addr x) (val x)) m) a = Memory.read sp m a := by
  induction l generalizing m with
  | nil => rfl
  | cons x l ih =>
    have hx := hin x List.mem_cons_self
    refine (ih (fun y hy => hin y (List.mem_cons_of_mem _ hy)) (Memory.wf_write h _ hx)
      fun y hy => ha y (List.mem_cons_of_mem _ hy)).trans ?_
    rw [Memory.read_write h, if_neg fun e => ha x List.mem_cons_self e.symm]

/-- An address exactly one write of the run goes to reads as what that write wrote. -/
theorem Memory.read_foldl_write {α : Type} {sp : Space} (l : List α) (addr : α → Nat) (val : α → Byte)
    (hin : ∀ x ∈ l, addr x < sp.size) (hinj : l.Pairwise fun x y => addr x ≠ addr y) {m : Memory}
    (h : Memory.wf sp m = true) {x : α} (hx : x ∈ l) :
    Memory.read sp (l.foldl (fun m x => Memory.write sp m (addr x) (val x)) m) (addr x) = val x := by
  induction l generalizing m with
  | nil => cases hx
  | cons y l ih =>
    obtain ⟨hy, hl⟩ := List.pairwise_cons.1 hinj
    have hwf := Memory.wf_write h (val y) (hin y List.mem_cons_self)
    have hin' : ∀ z ∈ l, addr z < sp.size := fun z hz => hin z (List.mem_cons_of_mem _ hz)
    rcases List.mem_cons.1 hx with rfl | hx
    · refine (Memory.read_foldl_write_of_ne l addr val hin' hwf fun z hz => (hy z hz).symm).trans ?_
      rw [Memory.read_write h, if_pos rfl]
    · exact ih hin' hl hwf hx

end Sys2Proof.Machine
end

