-- ==== Sys2Proof/Laws/PerInstr.lean ====
section
/-! SUPPORT. Statements about every operation as syntax, one lemma per constructor. -/

namespace Sys2Proof

/-- The port of a word, as the table's column "unit" names it: none for BUILD. -/
def RequestWord.unit : RequestWord → Option CodecUnit
  | .encReq _ => some .encoder
  | .decReq _ => some .decoder
  | .position u _ => some u
  | .elaboration _ => none

/-- The width of a word, as the table's column "width" gives it. -/
def RequestWord.width : RequestWord → Nat
  | .encReq _ => 64
  | .decReq _ => 104
  | .position _ _ => 4
  | .elaboration _ => 256

/-- The rows of spec/opcode_table.json: unit, width, and the value of the bits its mask fixes. -/
def tableRow : Instr → Option CodecUnit × Nat × Nat
  | .enc _ => (some .encoder, 64, 0)
  | .dec _ => (some .decoder, 104, 0)
  | .build _ => (none, 256, 0x6162636465666768696A6B6C6D6E6F707172737475767778797A323334353637)
  | .encP0 => (some .encoder, 4, 0x0) | .encP1 => (some .encoder, 4, 0x1) | .encP2 => (some .encoder, 4, 0x2)
  | .encP3 => (some .encoder, 4, 0x3) | .encP4 => (some .encoder, 4, 0x4) | .encP5 => (some .encoder, 4, 0x5)
  | .encP6 => (some .encoder, 4, 0x6) | .encP7 => (some .encoder, 4, 0x7) | .encP8 => (some .encoder, 4, 0x8)
  | .encP9 => (some .encoder, 4, 0x9) | .encP10 => (some .encoder, 4, 0xA) | .encP11 => (some .encoder, 4, 0xB)
  | .encP12 => (some .encoder, 4, 0xC)
  | .decP0 => (some .decoder, 4, 0x0) | .decP1 => (some .decoder, 4, 0x1) | .decP2 => (some .decoder, 4, 0x2)
  | .decP3 => (some .decoder, 4, 0x3) | .decP4 => (some .decoder, 4, 0x4) | .decP5 => (some .decoder, 4, 0x5)
  | .decP6 => (some .decoder, 4, 0x6) | .decP7 => (some .decoder, 4, 0x7) | .decP8 => (some .decoder, 4, 0x8)
  | .decP9 => (some .decoder, 4, 0x9) | .decP10 => (some .decoder, 4, 0xA) | .decP11 => (some .decoder, 4, 0xB)
  | .decP12 => (some .decoder, 4, 0xC)

/-- The bits of a word that the table's masks fix: all of BUILD's and of a position word, none of a request. -/
def RequestWord.fixedBits : RequestWord → Nat
  | .encReq _ => 0
  | .decReq _ => 0
  | .position _ w => w.toNat
  | .elaboration w => w.toNat

namespace Laws.TableRow

/-- A legal operation's word has the unit, the width and the fixed bits of its row. -/
def Statement (i : Instr) : Prop :=
  i.wf = true → ((encode i).unit, (encode i).width, (encode i).fixedBits) = tableRow i

theorem enc (v : Value) : Statement (.enc v) := fun _ => rfl
theorem dec (x : Symbols) : Statement (.dec x) := fun _ => rfl
theorem build (a : AlphabetBytes) : Statement (.build a) := fun h => by
  obtain rfl : a = Config.alphabet := by simpa [Instr.wf] using h
  decide
theorem encP0 : Statement .encP0 := fun _ => rfl
theorem encP1 : Statement .encP1 := fun _ => rfl
theorem encP2 : Statement .encP2 := fun _ => rfl
theorem encP3 : Statement .encP3 := fun _ => rfl
theorem encP4 : Statement .encP4 := fun _ => rfl
theorem encP5 : Statement .encP5 := fun _ => rfl
theorem encP6 : Statement .encP6 := fun _ => rfl
theorem encP7 : Statement .encP7 := fun _ => rfl
theorem encP8 : Statement .encP8 := fun _ => rfl
theorem encP9 : Statement .encP9 := fun _ => rfl
theorem encP10 : Statement .encP10 := fun _ => rfl
theorem encP11 : Statement .encP11 := fun _ => rfl
theorem encP12 : Statement .encP12 := fun _ => rfl
theorem decP0 : Statement .decP0 := fun _ => rfl
theorem decP1 : Statement .decP1 := fun _ => rfl
theorem decP2 : Statement .decP2 := fun _ => rfl
theorem decP3 : Statement .decP3 := fun _ => rfl
theorem decP4 : Statement .decP4 := fun _ => rfl
theorem decP5 : Statement .decP5 := fun _ => rfl
theorem decP6 : Statement .decP6 := fun _ => rfl
theorem decP7 : Statement .decP7 := fun _ => rfl
theorem decP8 : Statement .decP8 := fun _ => rfl
theorem decP9 : Statement .decP9 := fun _ => rfl
theorem decP10 : Statement .decP10 := fun _ => rfl
theorem decP11 : Statement .decP11 := fun _ => rfl
theorem decP12 : Statement .decP12 := fun _ => rfl

end Laws.TableRow

end Sys2Proof
end

