-- ==== Sys2Proof/Tests/Slice0.lean ====
section
/-! SUPPORT. The model's own tests, and for each statement a witness that meets its hypotheses. Expected results are those of
spec/95_test_vectors.md, and of the encodings of spec/30_encoding.md and spec/opcode_table.json. -/

namespace Sys2Proof.Machine.Tests

open Sys2Proof.Config

/-! ### Helpers -/

/-- The outcome is a next state, and it passes the check. -/
def after (o : Result) (check : State → Bool) : Bool :=
  match o with
  | .next s => check s
  | .fault _ | .refused _ => false

def faultsWith (o : Result) (r : Fault) : Bool :=
  match o with
  | .fault r' => decide (r' = r)
  | .next _ | .refused _ => false

def refusesWith (o : Result) (r : Refusal) : Bool :=
  match o with
  | .refused r' => decide (r' = r)
  | .next _ | .fault _ => false

/-- After reset, with pipelines of two and one slots. -/
def small : State := { State.reset with encSlots := [none, none], decSlots := [none] }

/-- `small` within a transaction of the encoder: its value, and zeros where nothing has been written. -/
def withValue (v : Value) : State := small.setEnc (some { value := v, grp := tab13 fun _ => 0, sym := tab13 fun _ => 0 })

/-- `small` within a transaction of the decoder: its 13 symbols, and zeros where nothing has been written. -/
def withSym (w : Bus) : State := small.setDec (some
  { sym := unpackSym w, raw := tab13 fun _ => 0, contrib := tab13 fun _ => 0, acc := 0, value := 0, valid := false })

/-- `small` with tables that are not as built: 0x00 at ENC_ROM[3], ENC_ROM[31], and at DEC_ROM[0x00], DEC_ROM[0x61 + 1]. -/
def scrambled : State := small.setRoms [(3, 0x00#8), (31, 0x00#8)] [(0, 0x00#8), (0x62, 0x00#8)]

/-- An alphabet with its first two characters swapped: a permutation, still not the constant. -/
def swapped : AlphabetBytes := (Config.alphabet.set 0 0x62#8).set 1 0x61#8

/-- The request word of a BUILD with that alphabet. -/
def swappedWord : BitVec 256 := 0x6261636465666768696A6B6C6D6E6F707172737475767778797A323334353637#256

/-- The string of W1. -/
def strW1 : List Byte := [0x61, 0x65, 0x62, 0x61, 0x67, 0x62, 0x61, 0x66, 0x61, 0x79, 0x64, 0x71, 0x71]

/-! ### Well-formedness (R60, R65) -/

theorem test_wf_build_alphabet : (Instr.build Config.alphabet).wf = true := by decide
theorem test_wf_refuses_permuted_alphabet : (Instr.build swapped).wf = false := by decide
theorem test_wf_refuses_repeated_symbol : (Instr.build (Config.alphabet.set 1 0x61#8)).wf = false := by decide
theorem test_wf_refuses_uppercase : (Instr.build (Config.alphabet.set 0 0x41#8)).wf = false := by decide
theorem test_alphabet_check_refuses_short_and_repeated :
    alphabetOk (alphabetChars.drop 1) = false ∧ alphabetOk ('b' :: alphabetChars.drop 1) = false := by decide

/-! ### Decoding, every constructor by its word -/

theorem test_decode_enc_word :
    decode (.encReq 0b0000000100000010000000110000010000000101000001100000011100001000#64)
      = .ok (.enc 0x0102030405060708#64) := by decide

theorem test_decode_dec_word :
    decode (.decReq 0x61626364656667686970797A37#104) =
      .ok (.dec #v[0x61, 0x62, 0x63, 0x64, 0x65, 0x66, 0x67, 0x68, 0x69, 0x70, 0x79, 0x7A, 0x37]) := by decide

theorem test_decode_build_word :
    decode (.elaboration 0x6162636465666768696A6B6C6D6E6F707172737475767778797A323334353637#256)
      = .ok (.build Config.alphabet) := by decide

theorem test_decode_refuses_swapped_build_word : decode (.elaboration swappedWord) = .error .illegalAlphabet := by decide

theorem test_decode_enc_position_words :
    ([0b0000, 0b0001, 0b0010, 0b0011, 0b0100, 0b0101, 0b0110,
      0b0111, 0b1000, 0b1001, 0b1010, 0b1011, 0b1100].map fun w : BitVec 4 => decode (.position .encoder w)) =
    [.ok .encP0, .ok .encP1, .ok .encP2, .ok .encP3, .ok .encP4, .ok .encP5, .ok .encP6,
     .ok .encP7, .ok .encP8, .ok .encP9, .ok .encP10, .ok .encP11, .ok .encP12] := by decide

theorem test_decode_enc_position_words_refused :
    ([0b1101, 0b1110, 0b1111].map fun w : BitVec 4 => decode (.position .encoder w)) =
      [.error .noSuchPosition, .error .noSuchPosition, .error .noSuchPosition] := by decide

theorem test_decode_dec_position_words :
    ([0b0000, 0b0001, 0b0010, 0b0011, 0b0100, 0b0101, 0b0110,
      0b0111, 0b1000, 0b1001, 0b1010, 0b1011, 0b1100].map fun w : BitVec 4 => decode (.position .decoder w)) =
    [.ok .decP0, .ok .decP1, .ok .decP2, .ok .decP3, .ok .decP4, .ok .decP5, .ok .decP6,
     .ok .decP7, .ok .decP8, .ok .decP9, .ok .decP10, .ok .decP11, .ok .decP12] := by decide

theorem test_decode_dec_position_words_refused :
    ([0b1101, 0b1110, 0b1111].map fun w : BitVec 4 => decode (.position .decoder w)) =
      [.error .noSuchPosition, .error .noSuchPosition, .error .noSuchPosition] := by decide

/-- The rows of the opcode table, by width and match value. -/
theorem test_decodeTableWord :
    decodeTableWord 64 0xDEADBEEFCAFEBABE = some (.enc 0xDEADBEEFCAFEBABE#64) ∧
    decodeTableWord 104 0x61656261676261666179647171 = some (.dec (unpackSym 0x61656261676261666179647171#104)) ∧
    decodeTableWord 256 0x6162636465666768696A6B6C6D6E6F707172737475767778797A323334353637 =
      some (.build Config.alphabet) ∧
    decodeTableWord 8 0x0 = some .encP0 ∧ decodeTableWord 8 0xC = some .encP12 ∧ decodeTableWord 8 0xD = none := by
  decide

/-! ### The public constant (R144), the tables (spec/95_test_vectors.md section 2.1) -/

theorem test_alphabet_string : alphabetString.length = 32 ∧ alphabetString.toList = alphabetChars := by decide

theorem test_enc_rom_entries :
    [0, 25, 26, 31].map (fun i : Group => readEncRom [] i) = [0x61#8, 0x7A#8, 0x32#8, 0x37#8] := by decide

theorem test_dec_rom_entries :
    [0x61, 0x7A, 0x32, 0x37, 0x60, 0x7B, 0x31, 0x38].map (fun b : Byte => readDecRom [] b) =
      [0x00#8, 0x19#8, 0x1A#8, 0x1F#8, 0xFF#8, 0xFF#8, 0xFF#8, 0xFF#8] ∧
    [0x00, 0x20, 0x3D, 0x41, 0x5A, 0x7F, 0x80, 0xE1, 0xFF].map (fun b : Byte => readDecRom [] b) =
      List.replicate 9 0xFF#8 := by decide

theorem test_dec_rom_sum : ((List.range 256).map fun b => (readDecRom [] (BitVec.ofNat 8 b)).toNat).sum = 57616 := by
  decide +kernel

/-! ### ENC (sections 1.1, 2.2) -/

theorem test_exec_enc_s4 : after (exec (.enc 0x0102030405060708#64) small) (fun t =>
    decide (t.encTxn.grp.toList = [0, 4, 1, 0, 6, 1, 0, 5, 0, 24, 3, 16, 16]) &&
    decide (t.encIn = some (unpackSym 0x61656261676261666179647171#104)) && decide (t.decIn = none)) = true := by decide

/-- S1 to S3, and a selection of E1 to E25. -/
theorem test_enc_vectors :
    [0x0000000000000000, 0xFFFFFFFFFFFFFFFF, 0xFFFFFFFFFFFFFFFE, 0x0000000000000001, 0x000000000000000F,
     0x8000000000000000, 0x7FFFFFFFFFFFFFFF, 0x00000000FFFFFFFF, 0xFFFFFFFF00000000, 0xAAAAAAAAAAAAAAAA,
     0x5555555555555555, 0xDEADBEEFCAFEBABE, 0x0123456789ABCDEF, 0x6162636465666768, 0x00443214C74254B6].map
      (fun v : Value => packSym (encFn v)) =
    [0x61616161616161616161616161#104, 0x37373737373737373737373736#104, 0x37373737373737373737373734#104,
     0x61616161616161616161616163#104, 0x61616161616161616161616136#104, 0x71616161616161616161616161#104,
     0x70373737373737373737373736#104, 0x61616161616168373737373736#104, 0x37373737373779616161616161#104,
     0x766B766B766B766B766B766B75#104, 0x6B766B766B766B766B766B766B#104, 0x333277333533366B3732356C34#104,
     0x616572756B7A346A7670673636#104, 0x6D667267677A64666D7A747771#104, 0x6162636465666768696A6B6C6D#104] := by
  decide +kernel

/-! ### DEC (sections 1.2, 2.5, 2.6) -/

theorem test_exec_dec_s4 : after (exec (.dec (unpackSym 0x61656261676261666179647171#104)) small) (fun t =>
    decide (t.decTxn.acc = 0x1F#8) && decide (t.decIn = some ⟨0x0102030405060708#64, true⟩) &&
    decide (t.encIn = none)) = true := by decide

theorem test_exec_dec_s5 : after (exec (.dec (unpackSym 0x31323334353637383930313233#104)) small) (fun t =>
    decide (t.decTxn.raw.toList = [0xFF, 0x1A, 0x1B, 0x1C, 0x1D, 0x1E, 0x1F, 0xFF, 0xFF, 0xFF, 0xFF, 0x1A, 0x1B]) &&
    decide (t.decTxn.acc = 0xFF#8) && !t.decTxn.valid) = true := by decide

/-- V1, V3, V4, V5, V6, V7, V8, V9, V10, V11, V12, V13, V14. -/
theorem test_dec_valid_vectors :
    [0x61616161616161616161616162, 0x61616161616161616161616164, 0x37373737373737373737373737,
     0x37373737373737373737373735, 0x61656261676261666179647172, 0x7A7A7A7A7A7A7A7A7A7A7A7A7A,
     0x32333435363732333435363732, 0x6162636465666768696A6B6C6D, 0x6E6F707172737475767778797A,
     0x6232333435363761626364657A, 0x6D667267677A64666D7A747771, 0x333277333533366B3732356C34,
     0x333277333533366B3732356C35].map
      (fun w : Bus => (accOf (rawFn (unpackSym w)), valueFn (unpackSym w), validFn (unpackSym w))) =
    [(0x01#8, 0x0000000000000000#64, true), (0x03#8, 0x0000000000000001#64, true), (0x1F#8, 0xFFFFFFFFFFFFFFFF#64, true),
     (0x1F#8, 0xFFFFFFFFFFFFFFFE#64, true), (0x1F#8, 0x0102030405060708#64, true), (0x19#8, 0xCE739CE739CE739C#64, true),
     (0x1F#8, 0xD6F9DF7F5BE77DFD#64, true), (0x0F#8, 0x00443214C74254B6#64, true), (0x1F#8, 0x6B9F08CA74ADAF8C#64, true),
     (0x1F#8, 0x0EB7CEFBE008864C#64, true), (0x1F#8, 0x6162636465666768#64, true), (0x1F#8, 0xDEADBEEFCAFEBABE#64, true),
     (0x1F#8, 0xDEADBEEFCAFEBABE#64, true)] := by decide +kernel

/-- X1, X2, X3, X4, X5, X6, X7, X8, X9, X10, X11, X12, X13, X14, X15, X16, X17, X18, X19. -/
theorem test_dec_invalid_vectors :
    ([0x61616161616161616161616130, 0x61616161616161616161616131, 0x61616161616161616161616138,
      0x61616161616161616161616139, 0x41616161616161616161616161, 0x41454241474241464159445151,
      0x6165626167626166617964713D, 0x61616161616120616161616161, 0x61616161616161616161616160,
      0x6161616161616161616161617B, 0x6161616161616161616161612F, 0x6161616161616161616161613A,
      0x6161616161617A61616161615A, 0x61616161616161616161616100, 0x616161616161616161616161FF,
      0x616161616161616161616161E1, 0x80616161616161616161616161, 0x00000000000000000000000000,
      0x41373737373737373737373737].all
      fun w : Bus => decide (accOf (rawFn (unpackSym w)) = 0xFF#8) && !validFn (unpackSym w)) = true := by decide +kernel

/-! ### BUILD (section 2.1) -/

theorem test_exec_build_mends_the_tables : after (exec (.build Config.alphabet) scrambled) (fun t =>
    decide (t.encRom = []) && decide (t.decRom = [])) = true := by decide +kernel

theorem test_exec_build_refuses_swapped : refusesWith (exec (.build swapped) small) .illegalAlphabet = true := by decide

/-! ### ENC.P0 to ENC.P12 (section 2.3): all of the group's bits, then its lowest bit -/

theorem test_exec_encP0 :
    after (exec .encP0 (withValue 0xF800000000000000#64)) (fun t => decide (t.encTxn.grp = (tab13 fun _ => 0).set 0 31#5)) = true ∧
    after (exec .encP0 (withValue 0x0800000000000000#64)) (fun t => decide (t.encTxn.grp = (tab13 fun _ => 0).set 0 1#5)) = true := by
  decide

theorem test_exec_encP1 :
    after (exec .encP1 (withValue 0x07C0000000000000#64)) (fun t => decide (t.encTxn.grp = (tab13 fun _ => 0).set 1 31#5)) = true ∧
    after (exec .encP1 (withValue 0x0040000000000000#64)) (fun t => decide (t.encTxn.grp = (tab13 fun _ => 0).set 1 1#5)) = true := by
  decide

theorem test_exec_encP2 :
    after (exec .encP2 (withValue 0x003E000000000000#64)) (fun t => decide (t.encTxn.grp = (tab13 fun _ => 0).set 2 31#5)) = true ∧
    after (exec .encP2 (withValue 0x0002000000000000#64)) (fun t => decide (t.encTxn.grp = (tab13 fun _ => 0).set 2 1#5)) = true := by
  decide

theorem test_exec_encP3 :
    after (exec .encP3 (withValue 0x0001F00000000000#64)) (fun t => decide (t.encTxn.grp = (tab13 fun _ => 0).set 3 31#5)) = true ∧
    after (exec .encP3 (withValue 0x0000100000000000#64)) (fun t => decide (t.encTxn.grp = (tab13 fun _ => 0).set 3 1#5)) = true := by
  decide

theorem test_exec_encP4 :
    after (exec .encP4 (withValue 0x00000F8000000000#64)) (fun t => decide (t.encTxn.grp = (tab13 fun _ => 0).set 4 31#5)) = true ∧
    after (exec .encP4 (withValue 0x0000008000000000#64)) (fun t => decide (t.encTxn.grp = (tab13 fun _ => 0).set 4 1#5)) = true := by
  decide

theorem test_exec_encP5 :
    after (exec .encP5 (withValue 0x0000007C00000000#64)) (fun t => decide (t.encTxn.grp = (tab13 fun _ => 0).set 5 31#5)) = true ∧
    after (exec .encP5 (withValue 0x0000000400000000#64)) (fun t => decide (t.encTxn.grp = (tab13 fun _ => 0).set 5 1#5)) = true := by
  decide

theorem test_exec_encP6 :
    after (exec .encP6 (withValue 0x00000003E0000000#64)) (fun t => decide (t.encTxn.grp = (tab13 fun _ => 0).set 6 31#5)) = true ∧
    after (exec .encP6 (withValue 0x0000000020000000#64)) (fun t => decide (t.encTxn.grp = (tab13 fun _ => 0).set 6 1#5)) = true := by
  decide

theorem test_exec_encP7 :
    after (exec .encP7 (withValue 0x000000001F000000#64)) (fun t => decide (t.encTxn.grp = (tab13 fun _ => 0).set 7 31#5)) = true ∧
    after (exec .encP7 (withValue 0x0000000001000000#64)) (fun t => decide (t.encTxn.grp = (tab13 fun _ => 0).set 7 1#5)) = true := by
  decide

theorem test_exec_encP8 :
    after (exec .encP8 (withValue 0x0000000000F80000#64)) (fun t => decide (t.encTxn.grp = (tab13 fun _ => 0).set 8 31#5)) = true ∧
    after (exec .encP8 (withValue 0x0000000000080000#64)) (fun t => decide (t.encTxn.grp = (tab13 fun _ => 0).set 8 1#5)) = true := by
  decide

theorem test_exec_encP9 :
    after (exec .encP9 (withValue 0x000000000007C000#64)) (fun t => decide (t.encTxn.grp = (tab13 fun _ => 0).set 9 31#5)) = true ∧
    after (exec .encP9 (withValue 0x0000000000004000#64)) (fun t => decide (t.encTxn.grp = (tab13 fun _ => 0).set 9 1#5)) = true := by
  decide

theorem test_exec_encP10 :
    after (exec .encP10 (withValue 0x0000000000003E00#64)) (fun t => decide (t.encTxn.grp = (tab13 fun _ => 0).set 10 31#5)) = true ∧
    after (exec .encP10 (withValue 0x0000000000000200#64)) (fun t => decide (t.encTxn.grp = (tab13 fun _ => 0).set 10 1#5)) = true := by
  decide

theorem test_exec_encP11 :
    after (exec .encP11 (withValue 0x00000000000001F0#64)) (fun t => decide (t.encTxn.grp = (tab13 fun _ => 0).set 11 31#5)) = true ∧
    after (exec .encP11 (withValue 0x0000000000000010#64)) (fun t => decide (t.encTxn.grp = (tab13 fun _ => 0).set 11 1#5)) = true := by
  decide

theorem test_exec_encP12 :
    after (exec .encP12 (withValue 0x000000000000000F#64)) (fun t => decide (t.encTxn.grp = (tab13 fun _ => 0).set 12 30#5)) = true ∧
    after (exec .encP12 (withValue 0x0000000000000001#64)) (fun t => decide (t.encTxn.grp = (tab13 fun _ => 0).set 12 2#5)) = true := by
  decide

/-! ### DEC.P0 to DEC.P12 (section 2.4): index 31 (30 at position 12) at the position, and an invalid symbol there -/

theorem test_exec_decP0 : after (exec .decP0 (withSym 0x37616161616161616161616161#104)) (fun t =>
    decide (t.decTxn.raw = (tab13 fun _ => 0).set 0 0x1F#8) &&
    decide (t.decTxn.contrib = (tab13 fun _ => 0).set 0 0xF800000000000000#64)) = true := by decide

theorem test_exec_decP1 : after (exec .decP1 (withSym 0x61376161616161616161616161#104)) (fun t =>
    decide (t.decTxn.raw = (tab13 fun _ => 0).set 1 0x1F#8) &&
    decide (t.decTxn.contrib = (tab13 fun _ => 0).set 1 0x07C0000000000000#64)) = true := by decide

theorem test_exec_decP2 : after (exec .decP2 (withSym 0x61613761616161616161616161#104)) (fun t =>
    decide (t.decTxn.raw = (tab13 fun _ => 0).set 2 0x1F#8) &&
    decide (t.decTxn.contrib = (tab13 fun _ => 0).set 2 0x003E000000000000#64)) = true := by decide

theorem test_exec_decP3 : after (exec .decP3 (withSym 0x61616137616161616161616161#104)) (fun t =>
    decide (t.decTxn.raw = (tab13 fun _ => 0).set 3 0x1F#8) &&
    decide (t.decTxn.contrib = (tab13 fun _ => 0).set 3 0x0001F00000000000#64)) = true := by decide

theorem test_exec_decP4 : after (exec .decP4 (withSym 0x61616161376161616161616161#104)) (fun t =>
    decide (t.decTxn.raw = (tab13 fun _ => 0).set 4 0x1F#8) &&
    decide (t.decTxn.contrib = (tab13 fun _ => 0).set 4 0x00000F8000000000#64)) = true := by decide

theorem test_exec_decP5 : after (exec .decP5 (withSym 0x61616161613761616161616161#104)) (fun t =>
    decide (t.decTxn.raw = (tab13 fun _ => 0).set 5 0x1F#8) &&
    decide (t.decTxn.contrib = (tab13 fun _ => 0).set 5 0x0000007C00000000#64)) = true := by decide

theorem test_exec_decP6 : after (exec .decP6 (withSym 0x61616161616137616161616161#104)) (fun t =>
    decide (t.decTxn.raw = (tab13 fun _ => 0).set 6 0x1F#8) &&
    decide (t.decTxn.contrib = (tab13 fun _ => 0).set 6 0x00000003E0000000#64)) = true := by decide

theorem test_exec_decP7 : after (exec .decP7 (withSym 0x61616161616161376161616161#104)) (fun t =>
    decide (t.decTxn.raw = (tab13 fun _ => 0).set 7 0x1F#8) &&
    decide (t.decTxn.contrib = (tab13 fun _ => 0).set 7 0x000000001F000000#64)) = true := by decide

theorem test_exec_decP8 : after (exec .decP8 (withSym 0x61616161616161613761616161#104)) (fun t =>
    decide (t.decTxn.raw = (tab13 fun _ => 0).set 8 0x1F#8) &&
    decide (t.decTxn.contrib = (tab13 fun _ => 0).set 8 0x0000000000F80000#64)) = true := by decide

theorem test_exec_decP9 : after (exec .decP9 (withSym 0x61616161616161616137616161#104)) (fun t =>
    decide (t.decTxn.raw = (tab13 fun _ => 0).set 9 0x1F#8) &&
    decide (t.decTxn.contrib = (tab13 fun _ => 0).set 9 0x000000000007C000#64)) = true := by decide

theorem test_exec_decP10 : after (exec .decP10 (withSym 0x61616161616161616161376161#104)) (fun t =>
    decide (t.decTxn.raw = (tab13 fun _ => 0).set 10 0x1F#8) &&
    decide (t.decTxn.contrib = (tab13 fun _ => 0).set 10 0x0000000000003E00#64)) = true := by decide

theorem test_exec_decP11 : after (exec .decP11 (withSym 0x61616161616161616161613761#104)) (fun t =>
    decide (t.decTxn.raw = (tab13 fun _ => 0).set 11 0x1F#8) &&
    decide (t.decTxn.contrib = (tab13 fun _ => 0).set 11 0x00000000000001F0#64)) = true := by decide

theorem test_exec_decP12 : after (exec .decP12 (withSym 0x61616161616161616161616136#104)) (fun t =>
    decide (t.decTxn.raw = (tab13 fun _ => 0).set 12 0x1E#8) &&
    decide (t.decTxn.contrib = (tab13 fun _ => 0).set 12 0x000000000000000F#64)) = true := by decide

/-- An invalid symbol contributes its bits above the group too, at the top shifted out (R101, R102). -/
theorem test_exec_decP0_invalid : after (exec .decP0 (withSym 0x31000000000000000000000000#104)) (fun t =>
    decide (t.decTxn.raw[0] = 0xFF#8) && decide (t.decTxn.contrib[0] = 0xF800000000000000#64)) = true := by decide

/-! ### Cycles (section 2.8, latency 2 for the encoder) -/

/-- Cycle 1: a request is in slot 0, no response. -/
theorem test_cycle_request_enters_slot_zero :
    after (step (small.setInputs [.cycle (PortCycle.encRequest 0#64)])) (fun t =>
      decide (t.encSlots = [some (unpackSym 0x61616161616161616161616161#104), none]) && !t.encRspStb &&
      decide (t.inputs = [])) = true := by decide

/-- Cycle 4: the response of cycle 2 comes out, and the request of cycle 4 goes in behind it. -/
theorem test_cycle_response_after_latency :
    after (step { small with
        encSlots := [none, some (unpackSym 0x37373737373737373737373736#104)],
        inputs := [.cycle (PortCycle.encRequest 0x0102030405060708#64)] }) (fun t =>
      t.encRspStb && decide (t.encRspSym = 0x37373737373737373737373736#104) &&
      decide (t.encSlots = [some (unpackSym 0x61656261676261666179647171#104), none])) = true := by decide

/-- Cycle 5: reset, with a request that is not accepted and a response in flight that never comes. -/
theorem test_cycle_reset_drops :
    after (step { small with
        encSlots := [some (unpackSym 0x61656261676261666179647171#104), none],
        inputs := [.cycle { PortCycle.encRequest 0xDEADBEEFCAFEBABE#64 with rst := true }] }) (fun t =>
      decide (t.encSlots = [none, none]) && !t.encRspStb && decide (t.encIn = none)) = true := by decide

/-- A cycle leaves no named value of a transaction: not of the one it ran, not of one begun before it (R15). -/
theorem test_cycle_ends_the_transactions :
    after (step ((withValue 5#64).setInputs [.cycle (PortCycle.decRequest 0x61616161616161616161616163#104)])) (fun t =>
      decide (t.enc = none) && decide (t.dec = none)) = true ∧
    after (step ((withSym 5#104).setInputs [.cycle PortCycle.reset])) (fun t =>
      decide (t.enc = none) && decide (t.dec = none)) = true := by decide

/-- With no slot the response is in the request's own cycle (R176). -/
theorem test_cycle_latency_zero :
    after (step { small with
        decSlots := [], inputs := [.cycle (PortCycle.decRequest 0x61616161616161616161616163#104)] }) (fun t =>
      t.decRspStb && t.decRspValid && decide (t.decRspValue = 1#64) && decide (t.decSlots = [])) = true := by decide

/-- With no input the clock runs (log 1). -/
theorem test_no_input_is_a_nop_cycle :
    after (step { small with decSlots := [some ⟨5#64, true⟩] }) (fun t =>
      t.decRspStb && t.decRspValid && decide (t.decRspValue = 5#64) && decide (t.decSlots = [none])) = true := by decide

/-! ### Calls (section 2.7) -/

/-- W2: the return writes 13 symbols and keeps the three slots behind them. -/
theorem test_call_encode_keeps_the_tail :
    after (step { small with
        encRspStb := true, encRspSym := 0x61616161616161616161616161#104,
        inputs := [.await (.encode (List.replicate 16 0x23#8))] }) (fun t =>
      decide (t.callResult = some (.encoded (List.replicate 13 0x61#8 ++ [0x23#8, 0x23#8, 0x23#8])))) = true := by decide

/-- W1, W5, W6: the call issues one transaction. -/
theorem test_call_issues_one_transaction :
    after (step (small.setInputs [.call (.encodeUint64ToString 0xFFFFFFFFFFFFFFFE#64)])) (fun t =>
      decide (t.inputs = [.cycle (PortCycle.encRequest 0xFFFFFFFFFFFFFFFE#64), .cycle PortCycle.nop,
        .cycle PortCycle.nop, .await (.encode (List.replicate 13 0))])) = true ∧
    after (step (small.setInputs [.call (.decodeUint64 strW1)])) (fun t =>
      decide (t.inputs = [.cycle (PortCycle.decRequest 0x61656261676261666179647171#104), .cycle PortCycle.nop,
        .await .decode])) = true := by decide

/-- W3, W4, W7, W8, W9, W11. -/
theorem test_call_lengths :
    faultsWith (step (small.setInputs [.call (.encodeUint64 0 (List.replicate 12 0))])) .encDstShort = true ∧
    faultsWith (step (small.setInputs [.call (.encodeUint64 0 [])])) .encDstShort = true ∧
    faultsWith (step (small.setInputs [.call (.decodeUint64 (strW1.take 12))])) .decSrcShort = true ∧
    faultsWith (step (small.setInputs [.call (.decodeUint64FromString [0x31, 0x32, 0x33])])) .decSrcShort = true ∧
    faultsWith (step (small.setInputs [.call (.decodeUint64 [])])) .decSrcShort = true ∧
    refusesWith (step (small.setInputs [.call (.decodeUint64 (strW1 ++ [0x61]))])) .decSrcLong = true := by decide

/-- W10: an invalid string is no fault; the pair has `valid = 0`. -/
theorem test_call_decode_returns_invalid :
    after (step { small with decRspStb := true, decRspValid := false, decRspValue := 9#64, inputs := [.await .decode] })
      (fun t => decide (t.callResult = some (.decoded 9#64 false))) = true := by decide

/-- A call waits while no response has come (R145). -/
theorem test_call_waits :
    after (step { small with inputs := [.await .decode] }) (fun t =>
      decide (t.inputs = [.cycle PortCycle.nop, .await .decode]) && decide (t.callResult = none)) = true := by decide

/-! ### Fetching -/

theorem test_withFetchWord_enc :
    after (step (small.withFetchWord 64 0x0102030405060708)) (fun t =>
      decide (t.encSlots = [some (unpackSym 0x61656261676261666179647171#104), none])) = true := by decide

theorem test_withFetchWord_position :
    after (step ((withValue 0x00000000000001F0#64).withFetchWord 8 0xB)) (fun t =>
      decide (t.encTxn.grp[11] = 31#5) && decide (t.inputs = [])) = true := by decide

/-! ### Witnesses: states and operands that meet the hypotheses of the statements, at the edges of their ranges -/

theorem small_tables : small.TablesBuilt := ⟨rfl, rfl⟩

theorem witness_EncRomHoldsTheAlphabetInOrder :
    small.TablesBuilt ∧ (25#5).toNat ≤ 25 ∧ readEncRom small.encRom 25#5 = 0x7A#8 ∧
    26 ≤ (26#5).toNat ∧ readEncRom small.encRom 26#5 = 0x32#8 := by decide

theorem witness_DecRomInvertsTheAlphabet :
    small.TablesBuilt ∧
    [0x31, 0x32, 0x37, 0x38, 0x60, 0x61, 0x7A, 0x7B].map (fun b : Byte => readDecRom small.decRom b) =
      [0xFF#8, 0x1A#8, 0x1F#8, 0xFF#8, 0xFF#8, 0x00#8, 0x19#8, 0xFF#8] := by decide

theorem witness_TablesAreExactInverses :
    small.TablesBuilt ∧ readDecRom small.decRom 0x37#8 ≠ Config.sentinel ∧
    ∀ i : Group, 0x38#8 ≠ readEncRom small.encRom i := by decide

theorem witness_DecodeEncodeRoundTrip :
    (Instr.build Config.alphabet).wf = true ∧ (Instr.enc 0#64).wf = true ∧ Instr.decP12.wf = true := by decide

theorem witness_EncodeDecodeRoundTrip :
    decode (.decReq 0xFF#104) = .ok (.dec ((tab13 fun _ => 0).set 12 0xFF#8)) ∧
    decode (.position .decoder 12#4) = .ok .decP12 := by decide

theorem witness_PositionWordsThirteenToFifteenAreRefused :
    (small.setInputs [.position .encoder 13#4]).inputs = .position .encoder 13#4 :: [] ∧ 13 ≤ (13#4).toNat ∧
    13 ≤ (15#4).toNat ∧ (12#4).toNat < 13 := by decide

theorem witness_TableWordsDecodeByWidth :
    13 ≤ 13 ∧ 13 < 16 ∧ decodeTableWord 8 13 = none ∧ 13 ≤ 15 ∧ 15 < 16 ∧ decodeTableWord 8 15 = none := by decide

theorem witness_EncPositions0To5WriteTheirGroup :
    (0x07FFFFFFFFFFFFFF#64).toNat < 2 ^ 59 ∧ (0x07FFFFFFFFFFFFFF#64).extractLsb' 59 5 = 0#5 ∧
    0xF800000000000000 ≤ (0xF800000000000000#64).toNat ∧ (0xF800000000000000#64).extractLsb' 59 5 = 31#5 := by decide

theorem witness_EncPosition12WritesTheLowBitsAndThePadding :
    (0x10#64).extractLsb' 0 4 = 0#4 ∧ (0x1F#64).extractLsb' 0 4 = 0xF#4 ∧ (0x1E#64).extractLsb' 0 4 = 0xE#4 := by decide

theorem witness_EncAnswersTheThirteenSymbols : small.TablesBuilt ∧ (0 : Pos).val ≤ 11 ∧ (11 : Pos).val ≤ 11 := by decide

theorem witness_EncOutputEndsInAnEvenSymbol :
    (11 : Pos).val ≤ 11 ∧ (encFn 0x1F0#64)[(11 : Pos)] = readEncRom [] 31#5 := by decide

theorem witness_EncIsInjectiveOntoTheCanonicalForms :
    encFn 7#64 = encFn 7#64 ∧ Canonical (unpackSym 0x61616161616161616161616136#104) := by decide

theorem witness_DecPositionsWriteLookupAndContribution :
    59 ∈ [59, 54, 49, 44, 39, 34] ∧ 4 ∈ [29, 24, 19, 14, 9, 4] ∧ (31#8).toNat < 32 ∧ (0#8).toNat < 32 := by decide

theorem witness_DecPosition12DropsTheLowBit :
    (31#8).toNat < 32 ∧ (31#8).setWidth 64 >>> 1 = 15#64 ∧ (0#8).toNat < 32 := by decide

theorem witness_DecAnswersValueAndValid : small.TablesBuilt ∧ (11 : Pos).val ≤ 11 := by decide

theorem witness_ValidContributionsOccupyDisjointFields :
    ∀ p : Pos, ((tab13 fun _ => 31#8 : PerPos Byte)[p]).toNat < 32 := by decide

theorem witness_AnySentinelAboveThirtyOneWouldDo :
    0x20#8 &&& 0xE0#8 ≠ 0#8 ∧ (31#8).toNat < 32 ∧
    ∀ sentinel ∈ [0x20#8, 31#8], ∀ p : Pos, let raw : PerPos Byte := (tab13 fun _ => 0#8).set 12 sentinel
      raw[p].toNat < 32 ∨ raw[p] = sentinel := by decide

theorem witness_ValidIffEverySymbolIsInTheAlphabet : small.TablesBuilt := by decide

theorem witness_NamedInvalidBytesAreRejected :
    small.TablesBuilt ∧ (unpackSym 0x3D616161616161616161616161#104)[(0 : Pos)] = 0x3D#8 ∧
    (unpackSym 0x61616161616161616161616141#104)[(12 : Pos)].toNat = 0x41 ∧
    (unpackSym 0x6161616161615A616161616161#104)[(6 : Pos)].toNat = 0x5A ∧
    (unpackSym 0x1F616161616161616161616161#104)[(0 : Pos)].toNat < 0x20 ∧
    0x80 ≤ (unpackSym 0x61616161616161616161616180#104)[(12 : Pos)].toNat := by decide

theorem witness_DiscardedBitIsIgnored :
    let x := unpackSym 0x61616161616161616161616162#104
    let z := unpackSym 0x37373737373737373737373737#104
    small.TablesBuilt ∧ AllLegal x ∧ symIndex x 12 % 2 = 1 ∧ AllLegal z ∧ symIndex z 12 % 2 = 1 := by decide

theorem witness_DecodeOfEncodeIsTheInteger : small.TablesBuilt := by decide

theorem witness_EncodeOfDecodeNormalises :
    AllLegal (unpackSym 0x37373737373737373737373737#104) ∧ AllLegal (unpackSym 0x37373737373737373737373736#104) ∧
    ¬ Canonical (unpackSym 0x37373737373737373737373737#104) ∧ Canonical (unpackSym 0x37373737373737373737373736#104) ∧
    symIndex (unpackSym 0x37373737373737373737373737#104) 12 / 2 =
      symIndex (unpackSym 0x37373737373737373737373736#104) 12 / 2 := by decide

theorem witness_ResultShapesAgree :
    small.TablesBuilt ∧ AllLegal (unpackSym 0x61616161616161616161616161#104) ∧
    ¬ AllLegal (unpackSym 0x61616161616161616161616131#104) := by decide

theorem witness_BuildFillsBothTables :
    scrambled.MemWf ∧ scrambled.encRom ≠ [] ∧ scrambled.decRom ≠ [] ∧ ∀ i : Group, 0x30#8 ≠ readEncRom [] i := by decide

theorem witness_BuildIsIdempotent :
    small.TablesBuilt ∧ scrambled.MemWf ∧ ∃ t, exec (.build Config.alphabet) scrambled = .next t := 
  ⟨small_tables, by decide, _, rfl⟩

theorem witness_BuildRefusesEveryOtherAlphabet :
    swapped ≠ Config.alphabet ∧ (small.setInputs [.elaborate swappedWord]).inputs = .elaborate swappedWord :: [] ∧
    unpackAlphabet swappedWord ≠ Config.alphabet := by decide

theorem witness_OperationsTouchOnlyTheirOwnUnit :
    (∃ t, exec (.enc 1#64) small = .next t) ∧ (∃ t, exec .decP3 small = .next t) ∧
    (∃ t, exec (.build Config.alphabet) scrambled = .next t) ∧ (∀ a, Instr.enc 1#64 ≠ .build a) :=
  ⟨⟨_, rfl⟩, ⟨_, rfl⟩, ⟨_, rfl⟩, fun _ h => by cases h⟩

theorem witness_PositionsInAnyOrder : ((List.finRange 13).reverse).Perm (List.finRange 13) := by decide

theorem witness_StepRunsTheDecodedOperation :
    (small.setInputs [.cycle (PortCycle.encRequest 3#64)]).inputs = inputOf (.encReq 3#64) :: [] ∧
    decode (.encReq 3#64) = .ok (.enc 3#64) ∧
    (small.setInputs [.position .decoder 12#4]).inputs = inputOf (.position .decoder 12#4) :: [] ∧
    decode (.position .decoder 12#4) = .ok .decP12 ∧ decode (.position .decoder 13#4) = .error .noSuchPosition := by decide

theorem witness_CycleServesBothPorts :
    let y : PortCycle := { rst := false, encReqStb := true, encReqValue := 1, decReqStb := true, decReqSym := 2 }
    (small.setInputs [.cycle y]).inputs = .cycle y :: [] ∧ y.rst = false := by decide

theorem witness_IdleStepIsANopCycle : small.inputs = [] ∧ small.Complete := by decide

theorem witness_ResetCycleDropsEverythingInFlight :
    (small.setInputs [.cycle PortCycle.reset]).inputs = .cycle PortCycle.reset :: [] ∧ PortCycle.reset.rst = true ∧
    ∀ z ∈ [PortCycle.nop, { PortCycle.encRequest 1#64 with rst := true }],
      z.rst = true ∨ (z.encReqStb = false ∧ z.decReqStb = false) := by decide

/-- A schedule of R176's kind: two requests, the second one dropped by a reset. -/
def schedule : List PortCycle := [PortCycle.encRequest 1#64, PortCycle.nop, PortCycle.encRequest 2#64, PortCycle.reset]

theorem witness_ResponsesFollowTheCycleLaw :
    (let s : State := { small with inputs := schedule.map Input.cycle }
     s.TablesBuilt ∧ s.encIn = none ∧ s.decIn = none ∧ s.encSlots = List.replicate 2 none ∧
     s.decSlots = List.replicate 1 none) ∧
    responds PortCycle.encReqStb 2 schedule 2 ∧ ¬ responds PortCycle.encReqStb 2 schedule 4 ∧
    responds PortCycle.encReqStb 0 schedule 0 ∧ ¬ responds PortCycle.encReqStb 0 schedule 1 := by
  refine ⟨by decide, ⟨by decide, ⟨rfl, rfl⟩, fun k h1 h2 => ?_⟩, fun h => ?_, ⟨by decide, ⟨rfl, rfl⟩, fun k h1 h2 => ?_⟩,
    fun h => absurd h.2.1.1 (by decide)⟩
  · interval_cases k <;> rfl
  · exact absurd (h.2.2 3 (by decide) (by decide)) (by decide)
  · interval_cases k; rfl

theorem witness_NothingOfATransactionSurvives :
    (small.setInputs (schedule.map Input.cycle)).inputs = schedule.map Input.cycle ∧ 0 < 1 ∧
    (withValue 5#64).enc ≠ none ∧ (withSym 5#104).dec ≠ none := by decide

theorem witness_RunEndsInTheAfterResetState :
    schedule.length + Config.latEnc < 5 + Config.latEnc + Config.latDec ∧
    schedule.length + Config.latDec < 5 + Config.latEnc + Config.latDec := by
  have h : schedule.length = 4 := rfl
  omega

/-- A decode response in flight, nothing in the encoder's two slots. -/
def inFlight : State := { small with decSlots := [some ⟨5#64, true⟩] }

theorem witness_RunIsCompleteAfterTheLatency :
    inFlight.inputs = [] ∧ inFlight.encIn = none ∧ inFlight.decIn = none ∧ 0 < 2 ∧ inFlight.encSlots.length ≤ 2 ∧
    inFlight.decSlots.length ≤ 2 ∧ ¬ inFlight.Complete := by decide

/-- The two states differ in the encoder's pipeline, and their schedules in the encoder's requests. -/
theorem witness_UnitsDoNotInfluenceEachOther :
    DecoderAgrees (small.setInputs [.cycle (PortCycle.encRequest 1#64)])
      { small with encSlots := [none], inputs := [.cycle PortCycle.nop] } ∧
    (∀ k, (cycleAt [PortCycle.encRequest 1#64] k).rst = (cycleAt [PortCycle.nop] k).rst ∧
      (cycleAt [PortCycle.encRequest 1#64] k).decReqStb = (cycleAt [PortCycle.nop] k).decReqStb ∧
      (cycleAt [PortCycle.encRequest 1#64] k).decReqSym = (cycleAt [PortCycle.nop] k).decReqSym) ∧
    EncoderAgrees (small.setInputs [.cycle (PortCycle.decRequest 1#104)])
      { small with decSlots := [], inputs := [.cycle PortCycle.nop] } ∧
    (∀ k, (cycleAt [PortCycle.decRequest 1#104] k).rst = (cycleAt [PortCycle.nop] k).rst ∧
      (cycleAt [PortCycle.decRequest 1#104] k).encReqStb = (cycleAt [PortCycle.nop] k).encReqStb ∧
      (cycleAt [PortCycle.decRequest 1#104] k).encReqValue = (cycleAt [PortCycle.nop] k).encReqValue) := by
  refine ⟨⟨rfl, rfl, rfl, rfl, rfl, rfl, rfl, rfl⟩, fun k => ?_, ⟨rfl, rfl, rfl, rfl, rfl, rfl, rfl⟩, fun k => ?_⟩ <;>
    cases k <;> exact ⟨rfl, rfl, rfl⟩

theorem witness_FailedDecodeChangesOnlyItsResponse :
    (PortCycle.decRequest 0x61616161616161616161616163#104).rst = false ∧ small.decSlots ≠ [] ∧
    validFn (unpackSym 0x61616161616161616161616163#104) = true ∧
    validFn (unpackSym 0x61616161616161616161616131#104) = false := by decide

/-- A state with a response in flight and one on the port meets the invariant, and steps (its latencies are open, so
the rest of its slots is what reset has). -/
theorem witness_EveryStepKeepsTheInvariant :
    let s : State := { State.reset with
      encRspStb := true, encRspSym := packSym (encFn 3#64), inputs := [.cycle (PortCycle.encRequest 1#64)] }
    s.Inv ∧ ∃ t, step s = .next t :=
  ⟨⟨small_tables, rfl, rfl, List.length_replicate, List.length_replicate,
    fun sym h => by simpa using List.eq_of_mem_replicate h, fun _ => ⟨3#64, rfl⟩⟩, _, rfl⟩

theorem witness_EveryStepKeepsTablesCanonical :
    let s := scrambled.setInputs [.cycle (PortCycle.encRequest 1#64)]
    s.MemWf ∧ (∃ t, step s = .next t) ∧ ∀ w rest, s.inputs ≠ .elaborate w :: rest :=
  ⟨by decide, ⟨_, rfl⟩, fun w rest h => by cases h⟩

theorem witness_StepCompletesIffTheInputIsSafe :
    (Input.position .encoder 12#4).safe = true ∧ (Input.position .encoder 13#4).safe = false ∧
    (Input.call (.decodeUint64 strW1)).safe = true ∧ (Input.call (.decodeUint64 (strW1 ++ [0x61]))).safe = false ∧
    (Input.elaborate swappedWord).safe = false := by decide

theorem witness_OnlyShortBuffersFault :
    (Call.encodeUint64 0 (strW1.take 12)).violation = some .encDstShort ∧ (Call.encodeUint64 0 strW1).violation = none ∧
    (Call.decodeUint64 (strW1.take 12)).violation = some .decSrcShort ∧ (Call.decodeUint64 strW1).violation = none := by
  decide

theorem witness_RefusalsAreTheThreeTheSpecNames :
    step (small.setInputs [.position .decoder 13#4]) = .refused .noSuchPosition ∧
    step (small.setInputs [.elaborate swappedWord]) = .refused .illegalAlphabet ∧
    step (small.setInputs [.call (.decodeUint64FromString (strW1 ++ [0x61]))]) = .refused .decSrcLong := by
  refine ⟨rfl, ?_, rfl⟩
  have h : decode (.elaboration swappedWord) = .error .illegalAlphabet := by decide
  simp only [step_cons (s := small.setInputs [.elaborate swappedWord]) rfl, runInput, runWord, h, Refusal.ofReject]

theorem witness_EncodeUint64WritesThirteenSymbols :
    let s := small.setInputs [.call (.encodeUint64 0 (strW1.take 12))]
    let t := small.setInputs [.call (.encodeUint64 0 strW1)]
    s.TablesBuilt ∧ s.encIn = none ∧ s.inputs = .call (.encodeUint64 0 (strW1.take 12)) :: [] ∧
    (strW1.take 12).length < 13 ∧
    t.TablesBuilt ∧ t.encIn = none ∧ t.inputs = .call (.encodeUint64 0 strW1) :: [] ∧ 13 ≤ strW1.length := by decide

theorem witness_EncodeToStringGivesThirteenCharacters :
    let s := small.setInputs [.call (.encodeUint64ToString 0xFFFFFFFFFFFFFFFF#64)]
    s.TablesBuilt ∧ s.encIn = none ∧ s.inputs = .call (.encodeUint64ToString 0xFFFFFFFFFFFFFFFF#64) :: [] := by decide

theorem witness_DecodeCallsReturnValueAndValid :
    (∀ src ∈ [strW1.take 12, strW1, strW1 ++ [0x61]], ∀ call ∈ [Call.decodeUint64 src, Call.decodeUint64FromString src],
      let s := small.setInputs [.call call]
      s.inputs = .call call :: [] ∧ s.TablesBuilt ∧ s.decIn = none) ∧
    (strW1.take 12).length < 13 ∧ 13 < (strW1 ++ [0x61]).length ∧
    strW1 = (unpackSym 0x61656261676261666179647171#104).toList := by decide

theorem witness_TableWordRunsNext :
    decodeTableWord 64 5 = some (.enc 5#64) ∧ decodeTableWord 104 0 = some (.dec (tab13 fun _ => 0)) ∧
    decodeTableWord 8 12 = some .encP12 := by decide

end Sys2Proof.Machine.Tests
end

section
/-! PROOFS. The state family: the two tables as built (R14, R28, R29), and what a clock cycle keeps of a transaction
(R10, R15). -/

namespace Sys2Proof.Machine

/-! ### The tables as built, as numbers -/

/-- `ENC_ROM` as built (R28): a letter's code below 26, a digit's from there. -/
theorem readEncRom_nil_toNat (i : Group) :
    (readEncRom [] i).toNat = if i.toNat < 26 then 0x61 + i.toNat else 0x32 + (i.toNat - 26) := by
  rw [readEncRom, Memory.read_nil, Space.unlisted]
  split <;> (rw [BitVec.toNat_ofNat]; omega)

/-- `DEC_ROM` as built (R29): an index at a letter's and at a digit's code, the sentinel elsewhere. -/
theorem readDecRom_nil_toNat (b : Byte) :
    (readDecRom [] b).toNat =
      if 0x61 ≤ b.toNat ∧ b.toNat ≤ 0x7A then b.toNat - 0x61
      else if 0x32 ≤ b.toNat ∧ b.toNat ≤ 0x37 then b.toNat - 0x32 + 26
      else 0xFF := by
  rw [readDecRom, Memory.read_nil, Space.unlisted]
  split
  · rw [BitVec.toNat_ofNat]; omega
  · split
    · rw [BitVec.toNat_ofNat]; omega
    · rfl

/-- Decoding an encoded index gives it back (R14, first clause). -/
theorem readDecRom_readEncRom_nil (i : Group) : readDecRom [] (readEncRom [] i) = i.setWidth 8 := by
  apply BitVec.eq_of_toNat_eq
  rw [readDecRom_nil_toNat, readEncRom_nil_toNat, BitVec.toNat_setWidth]
  split_ifs <;> omega

/-- The entries of `DEC_ROM` as built: an index at a legal symbol (R49), the sentinel at every other byte. -/
theorem readDecRom_nil_lt_iff (b : Byte) : (readDecRom [] b).toNat < 32 ↔ legalSymbol b = true := by
  rw [readDecRom_nil_toNat, legalSymbol, decide_eq_true_iff]
  split_ifs <;> omega

theorem readDecRom_nil_eq_sentinel_iff (b : Byte) : readDecRom [] b = Config.sentinel ↔ legalSymbol b = false := by
  have hs : Config.sentinel.toNat = 0xFF := rfl
  rw [← BitVec.toNat_inj, readDecRom_nil_toNat, hs, legalSymbol, decide_eq_false_iff_not]
  split_ifs <;> omega

/-- Encoding the index of a legal symbol gives the symbol back (R14, second clause). -/
theorem readEncRom_readDecRom_nil {b : Byte} (h : legalSymbol b = true) :
    readEncRom [] ((readDecRom [] b).setWidth 5) = b := by
  have hlt := (readDecRom_nil_lt_iff b).2 h
  apply BitVec.eq_of_toNat_eq
  rw [readEncRom_nil_toNat, BitVec.toNat_setWidth, Nat.mod_eq_of_lt hlt, readDecRom_nil_toNat]
  rw [legalSymbol, decide_eq_true_iff] at h
  split_ifs <;> omega

/-- Settles O4. The third clause is the second one read backwards: a byte with an index is the entry at that index. -/
theorem tablesAreExactInverses : Obligations.TablesAreExactInverses := by
  rintro s ⟨henc, hdec⟩
  rw [henc, hdec]
  have hsecond (b : Byte) (hb : readDecRom [] b ≠ Config.sentinel) :
      (readDecRom [] b).toNat < 32 ∧ readEncRom [] ((readDecRom [] b).setWidth 5) = b := by
    rw [ne_eq, readDecRom_nil_eq_sentinel_iff, Bool.not_eq_false] at hb
    exact ⟨(readDecRom_nil_lt_iff b).2 hb, readEncRom_readDecRom_nil hb⟩
  refine ⟨readDecRom_readEncRom_nil, hsecond, fun b hb => ?_⟩
  by_contra hne
  exact hb _ (hsecond b hne).2.symm

/-! ### A clock cycle reads no named value of a transaction and leaves none -/

/-- What a clock cycle does is the same whatever named values it finds: a request brings its own. -/
theorem runCycle_setEnc_setDec (c : PortCycle) (s : State) (e : Option EncTxn) (d : Option DecTxn) :
    runCycle c ((s.setEnc e).setDec d) = runCycle c s := by
  rw [runCycle_eq, runCycle_eq]
  split_ifs <;> rfl

/-- A clock cycle answers a state with no named value of a transaction, and takes no input of the host. -/
theorem runCycle_next (c : PortCycle) (s : State) :
    ∃ t, runCycle c s = .next t ∧ t.enc = none ∧ t.dec = none ∧ t.inputs = s.inputs := by
  refine ⟨_, runCycle_eq c s, ?_⟩
  split_ifs <;> exact ⟨rfl, rfl, rfl⟩

/-- One step of a schedule of clock cycles is a clock cycle, of the schedule or, after its end, a NOP. -/
theorem step_schedule {s : State} {cs : List PortCycle} (h : s.inputs = cs.map Input.cycle) :
    step s = runCycle (cs.headD PortCycle.nop) (s.setInputs (cs.tail.map Input.cycle)) := by
  cases cs with
  | nil =>
    have hs : s.setInputs [] = s := congrArg s.setInputs h.symm
    exact (step_nil h).trans (congrArg (runCycle PortCycle.nop) hs.symm)
  | cons c cs => exact step_cycle h

/-- One step of a schedule ends in one state, whatever named values it starts with, and leaves none. -/
theorem step_schedule_forgets {s : State} {cs : List PortCycle} (h : s.inputs = cs.map Input.cycle) :
    ∃ t, t.enc = none ∧ t.dec = none ∧ t.inputs = cs.tail.map Input.cycle ∧
      ∀ (e : Option EncTxn) (d : Option DecTxn), step ((s.setEnc e).setDec d) = .next t := by
  obtain ⟨t, ht, henc, hdec, hin⟩ := runCycle_next (cs.headD PortCycle.nop) (s.setInputs (cs.tail.map Input.cycle))
  refine ⟨t, henc, hdec, hin, fun e d => ?_⟩
  calc step ((s.setEnc e).setDec d)
      = runCycle (cs.headD PortCycle.nop) (((s.setInputs (cs.tail.map Input.cycle)).setEnc e).setDec d) :=
        step_schedule (s := (s.setEnc e).setDec d) h
    _ = runCycle (cs.headD PortCycle.nop) (s.setInputs (cs.tail.map Input.cycle)) := runCycle_setEnc_setDec ..
    _ = .next t := ht

/-- Settles O56, by induction on the number of cycles: the first one forgets the values it starts with, and every later
one starts with none. -/
theorem nothingOfATransactionSurvives : Obligations.NothingOfATransactionSurvives := by
  intro s cs n hs hn
  obtain ⟨n, rfl⟩ := Nat.exists_eq_add_one_of_ne_zero hn.ne'
  induction n generalizing s cs with
  | zero =>
    obtain ⟨t, henc, hdec, -, hstep⟩ := step_schedule_forgets hs
    exact ⟨t, henc, hdec, fun e d => runSteps_succ_of_next (hstep e d)⟩
  | succ n ih =>
    obtain ⟨t, -, -, hin, hstep⟩ := step_schedule_forgets hs
    obtain ⟨u, henc, hdec, hrun⟩ := ih t cs.tail hin n.succ_pos
    exact ⟨u, henc, hdec, fun e d => (runSteps_succ_of_next (hstep e d)).trans (hrun t.enc t.dec)⟩

end Sys2Proof.Machine
end

section
/-! PROOFS. The memory family: the contents of the two tables as built (R28, R29). -/

namespace Sys2Proof.Machine

/-! ### `ENC_ROM` as built, against the alphabet -/

/-- The codes of the alphabet, in order, are what the addresses 0 to 31 of `ENC_ROM` hold by construction. -/
theorem map_symbolCode_alphabetChars :
    Config.alphabetChars.map Config.symbolCode = (List.range Space.encRom.size).map Space.encRom.unlisted := by decide

theorem getElem?_map_symbolCode_alphabetChars (i : Group) :
    (Config.alphabetChars.map Config.symbolCode)[i.toNat]? = some (readEncRom [] i) := by
  have hi : i.toNat < Space.encRom.size := i.isLt
  rw [map_symbolCode_alphabetChars, List.getElem?_map, List.getElem?_range hi, Option.map_some, readEncRom,
    Memory.read_nil]

/-- Settles O2, from the alphabet's codes in order and the two ranges of `readEncRom_nil_toNat`. -/
theorem encRomHoldsTheAlphabetInOrder : Obligations.EncRomHoldsTheAlphabetInOrder := by
  refine ⟨rfl, by decide, fun s i ⟨henc, _⟩ => ?_⟩
  rw [henc, readEncRom_nil_toNat]
  exact ⟨getElem?_map_symbolCode_alphabetChars i, fun hi => if_pos (Nat.lt_succ_of_le hi), fun hi => if_neg hi.not_gt⟩

/-! ### `DEC_ROM` as built: which byte holds which index -/

/-- `DEC_ROM` holds an index at the byte `ENC_ROM` has for it and nowhere else. -/
theorem readDecRom_nil_eq_setWidth_iff (b : Byte) (i : Group) :
    readDecRom [] b = i.setWidth 8 ↔ b = readEncRom [] i := by
  constructor
  · intro h
    have hlt : (readDecRom [] b).toNat < 32 := by
      rw [h, BitVec.toNat_setWidth]
      omega
    have hi : (i.setWidth 8).setWidth 5 = i := BitVec.setWidth_setWidth_of_le i (by decide)
    rw [← readEncRom_readDecRom_nil ((readDecRom_nil_lt_iff b).1 hlt), h, hi]
  · rintro rfl
    exact readDecRom_readEncRom_nil i

/-- Exactly one of the 256 addresses is the one of a given byte. -/
theorem length_filter_range_ofNat_eq (c : Byte) :
    ((List.range 256).filter fun b => BitVec.ofNat 8 b = c).length = 1 := by
  have hcongr : (List.range 256).countP (fun b => decide (BitVec.ofNat 8 b = c)) = (List.range 256).count c.toNat := by
    refine List.countP_congr fun b hb => ?_
    have hb : b < 256 := List.mem_range.1 hb
    rw [decide_eq_true_iff, beq_iff_eq, ← BitVec.toNat_inj, BitVec.toNat_ofNat, Nat.mod_eq_of_lt hb]
  rw [← List.countP_eq_length_filter, hcongr]
  exact List.count_eq_one_of_mem List.nodup_range (List.mem_range.2 c.isLt)

/-- 32 of the 256 bytes are legal symbols (R49). -/
theorem length_filter_range_legalSymbol :
    ((List.range 256).filter fun b => legalSymbol (BitVec.ofNat 8 b)).length = 32 := by decide

theorem length_filter_range_readDecRom_nil_ne_sentinel :
    ((List.range 256).filter fun b => readDecRom [] (BitVec.ofNat 8 b) ≠ Config.sentinel).length = 32 := by
  simp only [ne_eq, readDecRom_nil_eq_sentinel_iff, Bool.not_eq_false, Bool.decide_eq_true]
  exact length_filter_range_legalSymbol

theorem length_filter_range_readDecRom_nil_eq (i : Group) :
    ((List.range 256).filter fun b => readDecRom [] (BitVec.ofNat 8 b) = i.setWidth 8).length = 1 := by
  simp only [readDecRom_nil_eq_setWidth_iff]
  exact length_filter_range_ofNat_eq _

/-- Settles O3: the three ranges are those of `readDecRom_nil_toNat`; an entry that is no sentinel is one of a legal
symbol, and each index stands at the one byte that encodes it. -/
theorem decRomInvertsTheAlphabet : Obligations.DecRomInvertsTheAlphabet := by
  rintro s ⟨-, hdec⟩
  rw [hdec]
  refine ⟨fun b => ⟨fun hdigit => ?digit, fun hletter => ?letter, fun hother => ?other⟩,
    length_filter_range_readDecRom_nil_ne_sentinel, length_filter_range_readDecRom_nil_eq⟩
  case digit => rw [readDecRom_nil_toNat, if_neg (by omega), if_pos hdigit]
  case letter => rw [readDecRom_nil_toNat, if_pos hletter]
  case other =>
    have hillegal : legalSymbol b = false := by
      rw [legalSymbol, decide_eq_false_iff_not]
      omega
    exact (readDecRom_nil_eq_sentinel_iff b).2 hillegal

end Sys2Proof.Machine
end

section
/-! PROOFS. The encoding family: the symbol bus (R44, R45), and the bytes outside the alphabet (R50). -/

namespace Sys2Proof

/-! ### The bus, field by field -/

/-- The 13 fields cover the bus: two bus words that agree on every field are equal. -/
theorem bus_ext {u w : Bus} (h : ∀ p : Pos, u.extractLsb' (symLo p) 8 = w.extractLsb' (symLo p) 8) : u = w := by
  apply BitVec.eq_of_getLsbD_eq
  intro i hi
  have hp : (103 - i) / 8 < 13 := by omega
  let p : Pos := ⟨(103 - i) / 8, hp⟩
  have hlo : symLo p + i % 8 = i := by
    show 96 - 8 * ((103 - i) / 8) + i % 8 = i
    omega
  have hoff : i % 8 < 8 := Nat.mod_lt i (by decide)
  have hbit := congrArg (BitVec.getLsbD · (i % 8)) (h p)
  simpa only [BitVec.getLsbD_extractLsb', hoff, decide_true, Bool.true_and, hlo] using hbit

/-- Field `p` of a bus word is its symbol at position `p` (R45). -/
theorem unpackSym_getElem (w : Bus) (p : Pos) : (unpackSym w)[p] = w.extractLsb' (symLo p) 8 := tab13_getElem _ p

@[simp] theorem packSym_unpackSym (w : Bus) : packSym (unpackSym w) = w :=
  bus_ext fun p => (packSym_field (unpackSym w) p).trans (unpackSym_getElem w p)

/-- Settles O9. -/
theorem busPacksPositionZeroHighest : Obligations.BusPacksPositionZeroHighest :=
  ⟨packSym_field, unpackSym_packSym, packSym_unpackSym⟩

/-- A mask of the OR is the OR of the masked words. -/
theorem or13_and {w : Nat} (f : Pos → BitVec w) (m : BitVec w) : or13 f &&& m = or13 fun p => f p &&& m := by
  simp only [or13, BitVec.and_or_distrib_right]

end Sys2Proof

namespace Sys2Proof.Machine

/-! ### `valid`, lookup by lookup -/

/-- The mask of R117 is clear exactly on the bytes below 32. -/
theorem and_validityMask_eq_zero_iff : ∀ b : Byte, b &&& Config.validityMask = 0#8 ↔ b.toNat < 32 := by decide

/-- No lookup hides another in the accumulator: `valid` is 1 exactly where each of the 13 lookups is below 32. -/
theorem validOf_accOf_eq_true_iff (raw : PerPos Byte) : validOf (accOf raw) = true ↔ ∀ p : Pos, raw[p].toNat < 32 := by
  rw [validOf, decide_eq_true_iff, accOf, or13_and]
  exact (or13_eq_zero _).trans (forall_congr' fun p => and_validityMask_eq_zero_iff raw[p])

theorem rawFn_getElem (x : Symbols) (p : Pos) : (rawFn x)[p] = readDecRom [] x[p] := tab13_getElem _ p

/-- With the tables as built, `valid` is 1 exactly on 13 legal symbols. -/
theorem validFn_eq_true_iff (x : Symbols) : validFn x = true ↔ AllLegal x := by
  rw [validFn, validOf_accOf_eq_true_iff]
  exact forall_congr' fun p => by rw [rawFn_getElem, readDecRom_nil_lt_iff]

/-- A DEC transaction with the table as built has `valid` of its symbols, whatever the free value is. -/
@[simp] theorem decTransaction_nil_valid (draw : Nat) (x : Symbols) : (decTransaction [] draw x).valid = validFn x := rfl

/-! ### Bytes that R50 names -/

/-- The digits 0, 1, 8 and 9, padding, space and DEL. -/
theorem legalSymbol_singly_named :
    ∀ b ∈ [0x30#8, 0x31#8, 0x38#8, 0x39#8, 0x3D#8, 0x20#8, 0x7F#8], legalSymbol b = false := by decide

/-- Uppercase letters, control bytes and high bytes lie outside both ranges of R49. -/
theorem legalSymbol_of_named_range {b : Byte}
    (h : (0x41 ≤ b.toNat ∧ b.toNat ≤ 0x5A) ∨ b.toNat < 0x20 ∨ 0x80 ≤ b.toNat) : legalSymbol b = false := by
  rw [legalSymbol, decide_eq_false_iff_not]
  omega

/-- Settles O27: a byte R50 names is no legal symbol, and one such byte is enough for `valid = 0`. -/
theorem namedInvalidBytesAreRejected : Obligations.NamedInvalidBytesAreRejected := by
  rintro s x p ⟨-, hdec⟩ hnamed
  have hillegal : legalSymbol x[p] = false := by
    rcases hnamed with hsingle | hrange
    · exact legalSymbol_singly_named _ hsingle
    · exact legalSymbol_of_named_range hrange
  have hinvalid : validFn x = false := by
    rw [Bool.eq_false_iff, ne_eq, validFn_eq_true_iff]
    exact fun hall => Bool.false_ne_true (hillegal.symm.trans (hall p))
  refine ⟨_, _, exec_dec x s, s.acceptDec_dec x, ?_⟩
  rw [hdec, decTransaction_nil_valid, hinvalid]

end Sys2Proof.Machine
end

section
/-! PROOFS. The table-build family: the three loops of BUILD with the constant alphabet (R61, R62). -/

namespace Sys2Proof.Machine

/-! ### `ENC_ROM`: the loop of R61 -/

/-- The constant alphabet is, byte by byte, what `ENC_ROM` holds by construction. -/
theorem alphabet_getElem (i : Fin 32) : Config.alphabet[i] = Space.encRom.unlisted i.val := by
  revert i
  decide

theorem wf_buildEncRom (a : AlphabetBytes) {m : Memory} (h : Memory.wf .encRom m = true) :
    Memory.wf .encRom (buildEncRom a m) = true :=
  Memory.wf_foldl_write (sp := .encRom) (List.finRange 32) Fin.val (fun i => a[i]) (fun i _ => i.isLt) h

/-- R61's loop writes each byte of the alphabet at its index. -/
theorem read_buildEncRom (a : AlphabetBytes) {m : Memory} (h : Memory.wf .encRom m = true) (i : Fin 32) :
    Memory.read .encRom (buildEncRom a m) i.val = a[i] :=
  Memory.read_foldl_write (sp := .encRom) (List.finRange 32) Fin.val (fun i => a[i]) (fun i _ => i.isLt)
    ((List.nodup_finRange 32).imp Fin.val_ne_of_ne) h (List.mem_finRange i)

/-- R61's loop leaves `ENC_ROM` as built, whatever it held. -/
theorem buildEncRom_alphabet {m : Memory} (h : Memory.wf .encRom m = true) : buildEncRom Config.alphabet m = [] :=
  Memory.eq_nil_of_read (wf_buildEncRom _ h) fun a ha =>
    (read_buildEncRom Config.alphabet h ⟨a, ha⟩).trans (alphabet_getElem ⟨a, ha⟩)

/-! ### `DEC_ROM`: the two loops of R62 -/

theorem wf_clearDecRom {m : Memory} (h : Memory.wf .decRom m = true) : Memory.wf .decRom (clearDecRom m) = true :=
  Memory.wf_foldl_write _ id (fun _ => Config.sentinel) (fun _ hb => List.mem_range.1 hb) h

/-- After the first loop every entry is the sentinel. -/
theorem readDecRom_clearDecRom {m : Memory} (h : Memory.wf .decRom m = true) (b : Byte) :
    readDecRom (clearDecRom m) b = Config.sentinel :=
  Memory.read_foldl_write _ id (fun _ => Config.sentinel) (fun _ hb => List.mem_range.1 hb) List.nodup_range h
    (List.mem_range.2 b.isLt)

/-- No two indices have one byte, so no write of the second loop undoes another. -/
theorem readEncRom_nil_injective : Function.Injective (readEncRom []) :=
  Function.LeftInverse.injective (g := fun b => (readDecRom [] b).setWidth 5) fun i => by
    beta_reduce
    rw [readDecRom_readEncRom_nil, BitVec.setWidth_setWidth_of_le i (by decide), BitVec.setWidth_eq]

theorem pairwise_readEncRom_nil_ne :
    (List.range 32).Pairwise fun i j =>
      (readEncRom [] (BitVec.ofNat 5 i)).toNat ≠ (readEncRom [] (BitVec.ofNat 5 j)).toNat := by
  refine List.nodup_range.imp_of_mem fun {i j} hi hj hne heq => hne ?_
  have hij := congrArg BitVec.toNat (readEncRom_nil_injective (BitVec.eq_of_toNat_eq heq))
  rwa [BitVec.toNat_ofNat, BitVec.toNat_ofNat, Nat.mod_eq_of_lt (List.mem_range.1 hi),
    Nat.mod_eq_of_lt (List.mem_range.1 hj)] at hij

theorem wf_invertEncRom (e : Memory) {m : Memory} (h : Memory.wf .decRom m = true) :
    Memory.wf .decRom (invertEncRom e m) = true :=
  Memory.wf_foldl_write _ (fun i => (readEncRom e (BitVec.ofNat 5 i)).toNat) (BitVec.ofNat 8)
    (fun _ _ => BitVec.isLt _) h

/-- The second loop writes each index at its byte. -/
theorem readDecRom_invertEncRom_nil_readEncRom {m : Memory} (h : Memory.wf .decRom m = true) (i : Group) :
    readDecRom (invertEncRom [] m) (readEncRom [] i) = i.setWidth 8 := by
  have hread : readDecRom (invertEncRom [] m) (readEncRom [] (BitVec.ofNat 5 i.toNat)) = BitVec.ofNat 8 i.toNat :=
    Memory.read_foldl_write _ (fun i => (readEncRom [] (BitVec.ofNat 5 i)).toNat) (BitVec.ofNat 8)
      (fun _ _ => BitVec.isLt _) pairwise_readEncRom_nil_ne h (List.mem_range.2 i.isLt)
  rwa [BitVec.ofNat_toNat, BitVec.ofNat_toNat, BitVec.setWidth_eq] at hread

/-- The second loop leaves the entry of a byte outside the alphabet. -/
theorem readDecRom_invertEncRom_of_ne {e m : Memory} (h : Memory.wf .decRom m = true) {b : Byte}
    (hb : ∀ i : Group, b ≠ readEncRom e i) : readDecRom (invertEncRom e m) b = readDecRom m b :=
  Memory.read_foldl_write_of_ne _ (fun i => (readEncRom e (BitVec.ofNat 5 i)).toNat) (BitVec.ofNat 8)
    (fun _ _ => BitVec.isLt _) h fun i _ heq => hb (BitVec.ofNat 5 i) (BitVec.eq_of_toNat_eq heq.symm)

/-- R62's loops leave `DEC_ROM` as built, whatever it held: a byte of the alphabet gets its index from the second loop,
any other keeps the sentinel of the first. -/
theorem invertEncRom_nil_clearDecRom {m : Memory} (h : Memory.wf .decRom m = true) :
    invertEncRom [] (clearDecRom m) = [] := by
  have hclear := wf_clearDecRom h
  obtain ⟨-, -, hsentinel⟩ := tablesAreExactInverses State.reset ⟨rfl, rfl⟩
  have hread (b : Byte) : readDecRom (invertEncRom [] (clearDecRom m)) b = readDecRom [] b := by
    by_cases hb : ∃ i : Group, b = readEncRom [] i
    · obtain ⟨i, rfl⟩ := hb
      rw [readDecRom_invertEncRom_nil_readEncRom hclear, readDecRom_readEncRom_nil]
    · have hne : ∀ i : Group, b ≠ readEncRom [] i := not_exists.1 hb
      rw [readDecRom_invertEncRom_of_ne hclear hne, readDecRom_clearDecRom h]
      exact (hsentinel b hne).symm
  exact Memory.eq_nil_of_read (wf_invertEncRom [] hclear) fun a ha => hread (BitVec.ofNatLT a ha)

/-! ### BUILD -/

/-- BUILD with the constant alphabet leaves both tables as built, and everything else of the state alone. -/
theorem exec_build_alphabet {s : State} (h : s.MemWf) : exec (.build Config.alphabet) s = .next (s.setRoms [] []) := by
  obtain ⟨henc, hdec⟩ := h
  rw [exec_build, if_pos rfl, State.buildTables, buildEncRom_alphabet henc, invertEncRom_nil_clearDecRom hdec]

/-- Settles O32: BUILD answers the tables as built, which hold the alphabet and its inverse (R28, R29, R14). -/
theorem buildFillsBothTables : Obligations.BuildFillsBothTables := by
  intro s h
  have hbuilt : (s.setRoms [] []).TablesBuilt := ⟨rfl, rfl⟩
  obtain ⟨hinverse, -, hsentinel⟩ := tablesAreExactInverses (s.setRoms [] []) hbuilt
  exact ⟨[], [], exec_build_alphabet h, getElem?_map_symbolCode_alphabetChars, hinverse, hsentinel, hbuilt⟩

end Sys2Proof.Machine
end

section
/-! PROOFS. The encode family: the field of the integer each position takes (R71 to R84), and ENC as a whole (R86,
R88). -/

namespace Sys2Proof.Machine

/-! ### Bit fields of an integer -/

/-- The mask of R71 keeps exactly the five bits the narrowing keeps. -/
theorem setWidth_and_groupMask (x : Value) : (x &&& 0x1f#64).setWidth 5 = x.setWidth 5 := by
  have hmask : (0x1f#64).setWidth 5 = BitVec.allOnes 5 := by decide
  rw [BitVec.setWidth_and, hmask, BitVec.and_allOnes]

/-- Shifting right by `n`, masking and narrowing is the field of five bits from bit `n` (R72 to R83). -/
theorem setWidth_ushiftRight_and_groupMask (v : Value) (n : Nat) :
    ((v >>> n) &&& 0x1f#64).setWidth 5 = v.extractLsb' n 5 := by
  rw [setWidth_and_groupMask, BitVec.setWidth_ushiftRight_eq_extractLsb]

/-- The top five bits of an integer, as a number. -/
theorem toNat_extractLsb'_59 (v : Value) : (v.extractLsb' 59 5).toNat = v.toNat / 2 ^ 59 := by
  rw [BitVec.extractLsb'_toNat, Nat.shiftRight_eq_div_pow, Nat.mod_eq_of_lt]
  omega

/-- At position 0 the mask changes nothing: only five bits are left (R72, R85). -/
theorem ushiftRight_59_and_groupMask (v : Value) : (v >>> 59) &&& 0x1f#64 = v >>> 59 := by
  have hlt : v.toNat / 2 ^ 59 < 2 ^ 5 := by omega
  apply BitVec.eq_of_toNat_eq
  calc ((v >>> 59) &&& 0x1f#64).toNat
      = v.toNat / 2 ^ 59 &&& (2 ^ 5 - 1) := by
        rw [BitVec.toNat_and, BitVec.toNat_ushiftRight, Nat.shiftRight_eq_div_pow]; rfl
    _ = v.toNat / 2 ^ 59 := by rw [Nat.and_two_pow_sub_one_eq_mod, Nat.mod_eq_of_lt hlt]
    _ = (v >>> 59).toNat := by rw [BitVec.toNat_ushiftRight, Nat.shiftRight_eq_div_pow]

/-- A zero appended at the low end doubles the number. -/
theorem toNat_append_zero {w : Nat} (x : BitVec w) : (x ++ 0#1).toNat = x.toNat * 2 := BitVec.toNat_concat x false

/-- Shifting left by one and narrowing is the low four bits followed by the padding zero (R84). -/
theorem setWidth_shiftLeft_one (v : Value) : (v <<< 1).setWidth 5 = v.extractLsb' 0 4 ++ 0#1 :=
  calc (v <<< 1).setWidth 5
      = v.setWidth 5 <<< 1 := BitVec.setWidth_shiftLeft_of_le (by decide)
    _ = (v.setWidth 5).extractLsb' 0 4 ++ 0#1 := BitVec.shiftLeft_eq_concat_of_lt (by decide)
    _ = v.extractLsb' 0 4 ++ 0#1 := by rw [BitVec.extractLsb'_setWidth_of_le (by decide)]

/-- A mask of the low four bits does not change them. -/
theorem extractLsb'_and_lowMask (v : Value) : (v &&& 0xf#64).extractLsb' 0 4 = v.extractLsb' 0 4 := by
  have hmask : (0xf#64).extractLsb' 0 4 = BitVec.allOnes 4 := by decide
  rw [BitVec.extractLsb'_and, hmask, BitVec.and_allOnes]

/-! ### The group of a position -/

/-- The encode column of R41's table at the positions 0 to 11. -/
theorem encShift_eq_right : ∀ p : Pos, p.val ≤ 11 → encShift p = .right (59 - 5 * p.val) := by decide

/-- Groups 0 to 11 by R88's formula. -/
theorem groupOf_eq_ushiftRight {p : Pos} (hp : p.val ≤ 11) (v : Value) :
    groupOf p v = ((v >>> (59 - 5 * p.val)) &&& 0x1f#64).setWidth 5 := by
  rw [groupOf, encShift_eq_right p hp, Shift.apply]

/-- Groups 0 to 11 are the bits `[63 - 5p : 59 - 5p]` of the integer (R72 to R83). -/
theorem groupOf_eq_extractLsb' {p : Pos} (hp : p.val ≤ 11) (v : Value) :
    groupOf p v = v.extractLsb' (59 - 5 * p.val) 5 := by
  rw [groupOf_eq_ushiftRight hp, setWidth_ushiftRight_and_groupMask]

/-- Group 12 by R88's formula. -/
theorem groupOf_twelve (v : Value) : groupOf 12 v = ((v <<< 1) &&& 0x1f#64).setWidth 5 := rfl

/-- Group 12 is the bits `[3:0]` of the integer followed by the padding zero (R84). -/
theorem groupOf_twelve_eq_append (v : Value) : groupOf 12 v = v.extractLsb' 0 4 ++ 0#1 := by
  rw [groupOf_twelve, setWidth_and_groupMask, setWidth_shiftLeft_one]

/-! ### The micro-operations -/

/-- ENC.P0 to ENC.P11 write their field of `value` and nothing else. -/
theorem exec_encPos_eq_withGroup (s : State) (p : Pos) (hp : p.val ≤ 11) :
    exec (encPosInstr p) s = .next (s.withGroup p (s.encTxn.value.extractLsb' (59 - 5 * p.val) 5)) := by
  rw [exec_encPos, State.encPosition, groupOf_eq_extractLsb' hp]

/-- Settles O11: each position is a case of `exec_encPos_eq_withGroup`, and each field one of
`setWidth_ushiftRight_and_groupMask`; the bounds of group 0 are those of the quotient by 2^59. -/
theorem encPositions0To5WriteTheirGroup : Obligations.EncPositions0To5WriteTheirGroup := by
  refine ⟨fun s => ?writes, fun v => ?fields, by decide, by decide⟩
  case writes =>
    have hwrite := exec_encPos_eq_withGroup s
    exact ⟨hwrite 0 (by decide), hwrite 1 (by decide), hwrite 2 (by decide),
      hwrite 3 (by decide), hwrite 4 (by decide), hwrite 5 (by decide)⟩
  case fields =>
    have hfield := setWidth_ushiftRight_and_groupMask v
    have htop := toNat_extractLsb'_59 v
    refine ⟨hfield 59, hfield 54, hfield 49, hfield 44, hfield 39, hfield 34,
      BitVec.setWidth_ushiftRight_eq_extractLsb, ushiftRight_59_and_groupMask v, fun hv => ?_, fun hv => ?_⟩
    · apply BitVec.eq_of_toNat_eq
      rw [htop, Nat.div_eq_of_lt hv, BitVec.toNat_ofNat]
    · apply BitVec.eq_of_toNat_eq
      rw [htop, BitVec.toNat_ofNat]
      omega

/-- Settles O12: as O11; the field that straddles bit 32 is cut there into two adjacent ones. -/
theorem encPositions6To11WriteTheirGroup : Obligations.EncPositions6To11WriteTheirGroup := by
  refine ⟨fun s => ?writes, fun v => ?fields, by decide, by decide, by decide, by decide⟩
  case writes =>
    have hwrite := exec_encPos_eq_withGroup s
    exact ⟨hwrite 6 (by decide), hwrite 7 (by decide), hwrite 8 (by decide),
      hwrite 9 (by decide), hwrite 10 (by decide), hwrite 11 (by decide)⟩
  case fields =>
    have hfield := setWidth_ushiftRight_and_groupMask v
    exact ⟨hfield 29, hfield 24, hfield 19, hfield 14, hfield 9, hfield 4,
      (BitVec.extractLsb'_append_extractLsb'_eq_extractLsb' (start₁ := 29) (len₁ := 3) (len₂ := 2) rfl).symm⟩

/-- ENC.P12 writes the low bits of `value` with the padding zero and nothing else. -/
theorem exec_encP12_eq_withGroup (s : State) :
    exec .encP12 s = .next (s.withGroup 12 (s.encTxn.value.extractLsb' 0 4 ++ 0#1)) := by
  rw [← groupOf_twelve_eq_append]
  exact exec_encPos 12 s

/-- Settles O13. Both spellings of the group are the low four bits before a zero, so its number is even. -/
theorem encPosition12WritesTheLowBitsAndThePadding : Obligations.EncPosition12WritesTheLowBitsAndThePadding := by
  refine ⟨exec_encP12_eq_withGroup, fun v => ⟨groupOf_twelve_eq_append v, ?masked, ?even, ?zero, ?xF, ?xE⟩,
    by decide, by decide, by decide, by decide⟩
  case masked => rw [setWidth_shiftLeft_one, extractLsb'_and_lowMask]
  case even => rw [toNat_append_zero, Nat.mul_mod_left]
  case zero => exact fun h => h ▸ rfl
  case xF => exact fun h => h ▸ rfl
  case xE => exact fun h => h ▸ rfl

/-! ### ENC -/

/-- The named values of an ENC transaction, position by position: the groups of R71, then the lookups of R86. -/
@[simp] theorem encTransaction_grp_getElem (rom : Memory) (v : Value) (p : Pos) :
    (encTransaction rom v).grp[p] = groupOf p v := tab13_getElem _ p

@[simp] theorem encTransaction_sym_getElem (rom : Memory) (v : Value) (p : Pos) :
    (encTransaction rom v).sym[p] = readEncRom rom (groupOf p v) :=
  (tab13_getElem _ p).trans (congrArg (readEncRom rom) (encTransaction_grp_getElem rom v p))

/-- Settles O15, with the groups and symbols of `encTransaction`: each symbol is the entry of `ENC_ROM` at its group,
which is the alphabet's byte there (R28). -/
theorem encAnswersTheThirteenSymbols : Obligations.EncAnswersTheThirteenSymbols := by
  refine ⟨fun s v ⟨henc, _⟩ => ?answers, by decide, by decide⟩
  case answers =>
    refine ⟨(encTransaction s.encRom v).grp, (encTransaction s.encRom v).sym, exec_enc v s, fun p hp => ?_, ?_,
      fun p => ?_⟩
    · rw [encTransaction_grp_getElem, groupOf_eq_ushiftRight hp]
    · rw [encTransaction_grp_getElem, groupOf_twelve]
    · rw [encTransaction_grp_getElem, encTransaction_sym_getElem, henc]
      exact ⟨rfl, getElem?_map_symbolCode_alphabetChars (groupOf p v)⟩

end Sys2Proof.Machine
end

section
/-! PROOFS. The decode family: the contribution of each position (R102 to R115), the accumulator and its test (R116 to
R119), and DEC as a whole (R122, R123, R125, R126). -/

namespace Sys2Proof

/-! ### The OR of thirteen words -/

/-- One word of all ones makes the OR all ones. -/
theorem or13_eq_allOnes {w : Nat} {f : Pos → BitVec w} {p : Pos} (hp : f p = BitVec.allOnes w) :
    or13 f = BitVec.allOnes w := by
  apply BitVec.eq_of_getLsbD_eq
  intro i hi
  have hbit : (BitVec.allOnes w).getLsbD i = true := by rw [BitVec.getLsbD_allOnes, decide_eq_true hi]
  rw [hbit]
  exact (or13_getLsbD f i).2 ⟨p, hp ▸ hbit⟩

theorem toNat_or_of_and_eq_zero {w : Nat} {x y : BitVec w} (h : x &&& y = 0#w) :
    (x ||| y).toNat = x.toNat + y.toNat := by
  rw [← BitVec.add_eq_or_of_and_eq_zero x y h, BitVec.toNat_add_of_and_eq_zero h]

/-- Words with no bit in common add up when they are ORed into one that has none in common with them either. -/
theorem toNat_foldl_or_of_pairwise {w : Nat} (f : Pos → BitVec w) (l : List Pos) (x : BitVec w)
    (hx : ∀ p ∈ l, x &&& f p = 0#w) (hl : l.Pairwise fun p q => f p &&& f q = 0#w) :
    (l.foldl (fun y p => y ||| f p) x).toNat = x.toNat + (l.map fun p => (f p).toNat).sum := by
  induction l generalizing x with
  | nil => rfl
  | cons p l ih =>
    obtain ⟨hp, hl⟩ := List.pairwise_cons.1 hl
    have hxp : ∀ q ∈ l, (x ||| f p) &&& f q = 0#w := fun q hq => by
      rw [BitVec.and_or_distrib_right, hx q (List.mem_cons_of_mem p hq), hp q hq, BitVec.or_zero]
    rw [List.foldl_cons, ih _ hxp hl, toNat_or_of_and_eq_zero (hx p List.mem_cons_self), List.map_cons, List.sum_cons,
      Nat.add_assoc]

/-- The OR of thirteen words no two of which have a bit in common is their sum. -/
theorem toNat_or13_of_disjoint {w : Nat} {f : Pos → BitVec w} (h : ∀ p q, p ≠ q → f p &&& f q = 0#w) :
    (or13 f).toNat = ((tab13 f).toList.map BitVec.toNat).sum := by
  have hfold : or13 f = (List.finRange 13).foldl (fun y p => y ||| f p) 0#w := by
    rw [or13, ← BitVec.zero_or (x := f 0)]
    rfl
  have hpair : (List.finRange 13).Pairwise fun p q => f p &&& f q = 0#w :=
    (List.nodup_finRange 13).imp fun {p q} hne => h p q hne
  rw [hfold, toNat_foldl_or_of_pairwise f _ _ (fun p _ => BitVec.zero_and) hpair, BitVec.toNat_zero, Nat.zero_add]
  rfl

end Sys2Proof

namespace Sys2Proof.Machine

/-! ### The contribution of a position -/

/-- The decode column of R41's table at the positions 0 to 11. -/
theorem decShift_eq_left : ∀ p : Pos, p.val ≤ 11 → decShift p = .left (59 - 5 * p.val) := by decide

/-- Contributions 0 to 11 by R102's formula. -/
theorem contribOf_eq_shiftLeft {p : Pos} (hp : p.val ≤ 11) (r : Byte) :
    contribOf p r = r.setWidth 64 <<< (59 - 5 * p.val) := by
  rw [contribOf, decShift_eq_left p hp, Shift.apply]

/-- Contribution 12 by R102's formula. -/
theorem contribOf_twelve (r : Byte) : contribOf 12 r = r.setWidth 64 >>> 1 := rfl

theorem contribOf_twelve_toNat (r : Byte) : (contribOf 12 r).toNat = r.toNat / 2 := by
  rw [contribOf_twelve, BitVec.toNat_ushiftRight, BitVec.toNat_setWidth, Nat.shiftRight_eq_div_pow]
  omega

/-- Contribution 12 does not depend on bit 0 of its lookup (R115, R122). -/
theorem contribOf_twelve_congr {r r' : Byte} (h : r.toNat / 2 = r'.toNat / 2) : contribOf 12 r = contribOf 12 r' :=
  BitVec.eq_of_toNat_eq (by rw [contribOf_twelve_toNat, contribOf_twelve_toNat, h])

/-- Every position is one of 0 to 11, whose contribution is shifted left, or 12. -/
theorem pos_le_eleven_or_eq_twelve (p : Pos) : p.val ≤ 11 ∨ p = 12 :=
  (Nat.lt_succ_iff_lt_or_eq.1 p.isLt).imp Nat.le_of_lt_succ (Fin.ext (b := 12))

/-- A byte below 32 has no bit above bit 4. -/
theorem getLsbD_eq_false_of_lt {r : Byte} (hr : r.toNat < 32) {i : Nat} (hi : 5 ≤ i) : r.getLsbD i = false := by
  rw [← BitVec.testBit_toNat]
  exact Nat.testBit_lt_two_pow (hr.trans_le (Nat.pow_le_pow_right (n := 2) (by decide) hi))

/-- A lookup below 32 shifted left by `lo` stands in the five bits from bit `lo`, and nowhere else (R103 to R114). -/
theorem fillsField_shiftLeft {r : Byte} (hr : r.toNat < 32) {lo : Nat} (hlo : lo ≤ 59) :
    FillsField (r.setWidth 64 <<< lo) lo (r.setWidth 5) := by
  intro j
  rw [BitVec.getLsbD_shiftLeft, BitVec.getLsbD_setWidth, BitVec.getLsbD_setWidth]
  by_cases hfield : lo ≤ j ∧ j < lo + 5
  · have h64 : j < 64 := by omega
    have hoff : j - lo < 64 ∧ j - lo < 5 := by omega
    simp [hfield, h64, hoff]
  · by_cases hj : j < lo
    · simp [hj, hfield]
    · simp [hfield, getLsbD_eq_false_of_lt hr (show 5 ≤ j - lo by omega)]

/-- In the 65-bit form of R71, whose bit `j + 1` is bit `j` of the integer, the contribution of a lookup below 32 has
the lookup's bits in the field `[64 - 5p : 60 - 5p]` and no others. One formula covers all 13 positions, position 12
included. -/
theorem contribOf_getLsbD_eq_true_iff (p : Pos) {r : Byte} (hr : r.toNat < 32) (j : Nat) :
    (contribOf p r).getLsbD j = true ↔
      60 - 5 * p.val ≤ j + 1 ∧ j + 1 < 65 - 5 * p.val ∧ r.getLsbD (j + 1 - (60 - 5 * p.val)) = true := by
  rcases pos_le_eleven_or_eq_twelve p with hp | rfl
  · have hoff : j - (59 - 5 * p.val) = j + 1 - (60 - 5 * p.val) := by omega
    rw [contribOf_eq_shiftLeft hp, fillsField_shiftLeft hr (Nat.sub_le ..), BitVec.getLsbD_setWidth, hoff,
      Bool.and_eq_true, Bool.and_eq_true, decide_eq_true_iff, decide_eq_true_iff]
    constructor
    · rintro ⟨⟨hlo, hhi⟩, -, hbit⟩
      exact ⟨by omega, by omega, hbit⟩
    · rintro ⟨hlo, hhi, hbit⟩
      exact ⟨⟨by omega, by omega⟩, by omega, hbit⟩
  · rw [contribOf_twelve, BitVec.getLsbD_ushiftRight, BitVec.getLsbD_setWidth]
    by_cases hj : j + 1 < 5
    · simp [Nat.add_comm 1 j, hj, show j + 1 < 64 by omega]
    · simp [Nat.add_comm 1 j, hj, getLsbD_eq_false_of_lt hr (show 5 ≤ j + 1 by omega)]

/-- The fields of two positions have no bit in common. -/
theorem contribOf_and_contribOf_eq_zero {p q : Pos} (hne : p ≠ q) {r r' : Byte} (hr : r.toNat < 32)
    (hr' : r'.toNat < 32) : contribOf p r &&& contribOf q r' = 0#64 := by
  apply BitVec.eq_of_getLsbD_eq
  intro j _
  rw [BitVec.getLsbD_and, BitVec.getLsbD_zero, Bool.and_eq_false_imp]
  intro hp
  rw [← Bool.not_eq_true]
  intro hq
  obtain ⟨hplo, hphi, -⟩ := (contribOf_getLsbD_eq_true_iff p hr j).1 hp
  obtain ⟨hqlo, hqhi, -⟩ := (contribOf_getLsbD_eq_true_iff q hr' j).1 hq
  exact hne (Fin.ext (by omega))

/-! ### The reconstructed value -/

theorem reconstruct_tab13 (f : Pos → Value) : reconstruct (tab13 f) = or13 f := by
  simp only [reconstruct, tab13_getElem]

/-- Bit `i` of the lookup at position `p` is bit `60 - 5p + i` of the 65-bit form of the reconstructed value. -/
theorem reconstruct_getLsbD {raw : PerPos Byte} (h : ∀ p : Pos, raw[p].toNat < 32) (p : Pos) {i j : Nat} (hi : i < 5)
    (hj : j + 1 = 60 - 5 * p.val + i) :
    (reconstruct (tab13 fun p => contribOf p raw[p])).getLsbD j = raw[p].getLsbD i := by
  rw [Bool.eq_iff_iff, reconstruct_tab13, or13_getLsbD]
  constructor
  · rintro ⟨q, hq⟩
    obtain ⟨hlo, hhi, hbit⟩ := (contribOf_getLsbD_eq_true_iff q (h q) j).1 hq
    obtain rfl : q = p := Fin.ext (by omega)
    rwa [hj, Nat.add_sub_cancel_left] at hbit
  · intro hbit
    refine ⟨p, (contribOf_getLsbD_eq_true_iff p (h p) j).2 ⟨by omega, by omega, ?_⟩⟩
    rwa [hj, Nat.add_sub_cancel_left]

/-- `value[63 - 5p : 59 - 5p] = raw[p][4:0]` for `p` in 0 to 11 (R102). -/
theorem extractLsb'_reconstruct {raw : PerPos Byte} (h : ∀ p : Pos, raw[p].toNat < 32) {p : Pos} (hp : p.val ≤ 11) :
    (reconstruct (tab13 fun p => contribOf p raw[p])).extractLsb' (59 - 5 * p.val) 5 = raw[p].setWidth 5 := by
  apply BitVec.eq_of_getLsbD_eq
  intro i hi
  rw [BitVec.getLsbD_extractLsb', BitVec.getLsbD_setWidth, reconstruct_getLsbD h p hi (by omega)]

/-- `value[3:0] = raw[12][4:1]` (R102). -/
theorem extractLsb'_zero_reconstruct {raw : PerPos Byte} (h : ∀ p : Pos, raw[p].toNat < 32) :
    (reconstruct (tab13 fun p => contribOf p raw[p])).extractLsb' 0 4 = raw[(12 : Pos)].extractLsb' 1 4 := by
  apply BitVec.eq_of_getLsbD_eq
  intro i hi
  have hplace : 0 + i + 1 = 60 - 5 * 12 + (1 + i) := by omega
  have hbit := reconstruct_getLsbD h 12 (by omega) hplace
  rw [BitVec.getLsbD_extractLsb', BitVec.getLsbD_extractLsb', hbit]

/-- The contributions of lookups below 32 add up to the reconstructed value. -/
theorem toNat_reconstruct {raw : PerPos Byte} (h : ∀ p : Pos, raw[p].toNat < 32) :
    (reconstruct (tab13 fun p => contribOf p raw[p])).toNat =
      ((tab13 fun p => contribOf p raw[p]).toList.map BitVec.toNat).sum := by
  rw [reconstruct_tab13]
  exact toNat_or13_of_disjoint fun p q hne => contribOf_and_contribOf_eq_zero hne (h p) (h q)

/-- Settles O23: the fields are read bit by bit, and that no two share a bit makes the OR a sum. -/
theorem validContributionsOccupyDisjointFields : Obligations.ValidContributionsOccupyDisjointFields := by
  refine ⟨fun raw h => ⟨fun p hp => extractLsb'_reconstruct h hp, extractLsb'_zero_reconstruct h, toNat_reconstruct h,
    fun p hp => ?shifted, ?twelve⟩, by decide⟩
  case shifted => rw [tab13_getElem, contribOf_eq_shiftLeft hp]
  case twelve => rw [tab13_getElem, contribOf_twelve]

/-! ### The micro-operations -/

/-- DEC.P0 to DEC.P11 write their lookup and its contribution and nothing else. -/
theorem exec_decPos_eq_withLookup (s : State) (p : Pos) (hp : p.val ≤ 11) :
    exec (decPosInstr p) s =
      .next (s.withLookup p (s.lookedUp p) ((s.lookedUp p).setWidth 64 <<< (59 - 5 * p.val))) := by
  rw [exec_decPos, State.decPosition, contribOf_eq_shiftLeft hp]

/-- Settles O19: each position is a case of `exec_decPos_eq_withLookup`, each field one of `fillsField_shiftLeft`. -/
theorem decPositions0To5WriteLookupAndContribution : Obligations.DecPositions0To5WriteLookupAndContribution := by
  refine ⟨fun s => ?writes, fun lo hlo r hr => ?fields, by decide⟩
  case writes =>
    have hwrite := exec_decPos_eq_withLookup s
    exact ⟨hwrite 0 (by decide), hwrite 1 (by decide), hwrite 2 (by decide),
      hwrite 3 (by decide), hwrite 4 (by decide), hwrite 5 (by decide)⟩
  case fields =>
    have hle : ∀ lo ∈ [59, 54, 49, 44, 39, 34], lo ≤ 59 := by decide
    exact fillsField_shiftLeft hr (hle lo hlo)

/-- Settles O20: as O19. -/
theorem decPositions6To11WriteLookupAndContribution : Obligations.DecPositions6To11WriteLookupAndContribution := by
  refine ⟨fun s => ?writes, fun lo hlo r hr => ?fields, by decide⟩
  case writes =>
    have hwrite := exec_decPos_eq_withLookup s
    exact ⟨hwrite 6 (by decide), hwrite 7 (by decide), hwrite 8 (by decide),
      hwrite 9 (by decide), hwrite 10 (by decide), hwrite 11 (by decide)⟩
  case fields =>
    have hle : ∀ lo ∈ [29, 24, 19, 14, 9, 4], lo ≤ 59 := by decide
    exact fillsField_shiftLeft hr (hle lo hlo)

/-- A lookup below 32 contributes its bits `[4:1]` at position 12 (R115). -/
theorem contribOf_twelve_eq_extractLsb' {r : Byte} (hr : r.toNat < 32) :
    contribOf 12 r = (r.extractLsb' 1 4).setWidth 64 := by
  apply BitVec.eq_of_toNat_eq
  rw [contribOf_twelve_toNat, BitVec.toNat_setWidth, BitVec.extractLsb'_toNat, Nat.shiftRight_eq_div_pow]
  omega

/-- Setting bit 0 of a byte does not change its half. -/
theorem toNat_or_one_div_two (r : Byte) : (r ||| 1#8).toNat / 2 = r.toNat / 2 := by
  rw [BitVec.toNat_or, Nat.or_div_two]
  exact Nat.or_zero _

/-- The validity test does not see bit 0 of the accumulator. -/
theorem validOf_or_one (acc : Byte) : validOf (acc ||| 1#8) = validOf acc := by
  have hone : 1#8 &&& Config.validityMask = 0#8 := by decide
  rw [validOf, BitVec.and_or_distrib_right, hone, BitVec.or_zero, validOf]

/-- Settles O21: the shift drops bit 0, which the mask of R117 does not hold either. -/
theorem decPosition12DropsTheLowBit : Obligations.DecPosition12DropsTheLowBit :=
  ⟨exec_decPos 12, fun _ hr => contribOf_twelve_eq_extractLsb' hr,
    fun r => contribOf_twelve_congr (toNat_or_one_div_two r), validOf_or_one, by decide⟩

/-! ### The accumulator -/

/-- `valid` by R117's formula. -/
theorem validOf_eq_true_iff (acc : Byte) : validOf acc = true ↔ acc &&& 0xE0#8 = 0#8 := decide_eq_true_iff

theorem validOf_eq_true_iff_lt (acc : Byte) : validOf acc = true ↔ acc.toNat < 32 :=
  (validOf_eq_true_iff acc).trans (and_validityMask_eq_zero_iff acc)

/-- R119: a sentinel above 31 is never hidden by the other lookups. -/
theorem validOf_accOf_eq_true_iff_ne {sentinel : Byte} (hs : 32 ≤ sentinel.toNat) {raw : PerPos Byte}
    (h : ∀ p : Pos, raw[p].toNat < 32 ∨ raw[p] = sentinel) :
    validOf (accOf raw) = true ↔ ∀ p : Pos, raw[p] ≠ sentinel := by
  rw [validOf_accOf_eq_true_iff]
  refine forall_congr' fun p => ⟨?_, (h p).resolve_right⟩
  intro hlt heq
  exact hs.not_gt (heq ▸ hlt)

/-- Settles O25. The mask of R117 meets a sentinel exactly where the sentinel is above 31. -/
theorem anySentinelAboveThirtyOneWouldDo : Obligations.AnySentinelAboveThirtyOneWouldDo := by
  refine ⟨rfl, fun sentinel => ⟨fun hmask raw h => ?detected, fun hlt raw h => ?unseen⟩⟩
  case detected =>
    have hs : 32 ≤ sentinel.toNat := Nat.le_of_not_lt fun hlt => hmask ((and_validityMask_eq_zero_iff sentinel).2 hlt)
    exact validOf_accOf_eq_true_iff_ne hs h
  case unseen =>
    refine (validOf_accOf_eq_true_iff raw).2 fun p => ?_
    rcases h p with hp | hp
    · exact hp
    · exact hp ▸ hlt

/-- A lookup in the table as built is an index or the sentinel (R101). -/
theorem rawFn_lt_or_eq_sentinel (x : Symbols) (p : Pos) : (rawFn x)[p].toNat < 32 ∨ (rawFn x)[p] = Config.sentinel := by
  rw [rawFn_getElem, readDecRom_nil_lt_iff, readDecRom_nil_eq_sentinel_iff]
  exact Bool.eq_false_or_eq_true _

theorem validFn_eq_true_iff_ne_sentinel (x : Symbols) :
    validFn x = true ↔ ∀ p : Pos, (rawFn x)[p] ≠ Config.sentinel :=
  validOf_accOf_eq_true_iff_ne (by decide) (rawFn_lt_or_eq_sentinel x)

/-- The sentinel is all ones, so one hit fills the accumulator. -/
theorem accOf_eq_sentinel {raw : PerPos Byte} {p : Pos} (hp : raw[p] = Config.sentinel) : accOf raw = Config.sentinel :=
  or13_eq_allOnes (f := fun p => raw[p]) hp

/-- The three bits that R117 tests. -/
theorem lt_iff_getLsbD_eq_false :
    ∀ acc : Byte, acc.toNat < 32 ↔ acc.getLsbD 7 = false ∧ acc.getLsbD 6 = false ∧ acc.getLsbD 5 = false := by decide

/-- Settles O24: with no sentinel among the lookups the accumulator is valid, hence below 32; with one it is the
sentinel itself. -/
theorem accumulatorShowsAnySentinel : Obligations.AccumulatorShowsAnySentinel := by
  refine ⟨fun acc => ⟨validOf_eq_true_iff acc, validOf_eq_true_iff_lt acc,
    (validOf_eq_true_iff_lt acc).trans (lt_iff_getLsbD_eq_false acc)⟩,
    fun x => ⟨?twoValued, validFn_eq_true_iff_ne_sentinel x⟩⟩
  case twoValued =>
    by_cases hit : ∃ p : Pos, (rawFn x)[p] = Config.sentinel
    · obtain ⟨p, hp⟩ := hit
      exact .inr (accOf_eq_sentinel hp)
    · have hvalid : validFn x = true := (validFn_eq_true_iff_ne_sentinel x).2 (not_exists.1 hit)
      exact .inl ((validOf_eq_true_iff_lt _).1 hvalid)

/-! ### DEC -/

/-- The named values of a DEC transaction, position by position: the lookups of R101, then their contributions. -/
@[simp] theorem decTransaction_raw_getElem (rom : Memory) (draw : Nat) (x : Symbols) (p : Pos) :
    (decTransaction rom draw x).raw[p] = readDecRom rom x[p] := tab13_getElem _ p

@[simp] theorem decTransaction_contrib_getElem (rom : Memory) (draw : Nat) (x : Symbols) (p : Pos) :
    (decTransaction rom draw x).contrib[p] = contribOf p (readDecRom rom x[p]) := by
  have hcontrib : (decTransaction rom draw x).contrib =
      tab13 fun p => contribOf p (decTransaction rom draw x).raw[p] := rfl
  rw [hcontrib, tab13_getElem, decTransaction_raw_getElem]

/-- Where `valid = 1` the value is the OR of the contributions (R120). -/
theorem decTransaction_value {rom : Memory} {draw : Nat} {x : Symbols} (h : (decTransaction rom draw x).valid = true) :
    (decTransaction rom draw x).value = reconstruct (decTransaction rom draw x).contrib := if_pos h

/-- A DEC transaction on 13 legal symbols with the table as built has their `value`, whatever the free value is. -/
theorem decTransaction_nil_value {x : Symbols} (h : AllLegal x) (draw : Nat) :
    (decTransaction [] draw x).value = valueFn x := decTransaction_value ((validFn_eq_true_iff x).2 h)

/-- Settles O22, with the named values of `decTransaction`. -/
theorem decAnswersValueAndValid : Obligations.DecAnswersValueAndValid := by
  refine ⟨fun s x _ => ?answers, by decide, by decide⟩
  case answers =>
    let t : DecTxn := decTransaction s.decRom s.draw x
    refine ⟨t.raw, t.contrib, t.acc, t.value, t.valid, exec_dec x s, decTransaction_raw_getElem s.decRom s.draw x,
      fun p hp => ?_, ?_, rfl, validOf_eq_true_iff t.acc, decTransaction_value⟩
    · rw [decTransaction_contrib_getElem, decTransaction_raw_getElem, contribOf_eq_shiftLeft hp]
    · rw [decTransaction_contrib_getElem, decTransaction_raw_getElem, contribOf_twelve]

/-- The legal symbols (R49) are the bytes of the alphabet. -/
theorem mem_alphabet_iff (b : Byte) : b ∈ Config.alphabet.toList ↔ legalSymbol b = true := by
  constructor
  · intro hmem
    have hlegal : ∀ c ∈ Config.alphabet.toList, legalSymbol c = true := by decide
    exact hlegal b hmem
  · intro hlegal
    rw [← readEncRom_readDecRom_nil hlegal]
    exact List.mem_of_getElem? (getElem?_map_symbolCode_alphabetChars _)

/-- Settles O26. -/
theorem validIffEverySymbolIsInTheAlphabet : Obligations.ValidIffEverySymbolIsInTheAlphabet := by
  rintro s x ⟨-, hdec⟩
  refine ⟨_, _, exec_dec x s, s.acceptDec_dec x, ?_, s.acceptDec_decIn x⟩
  rw [hdec, decTransaction_nil_valid, validFn_eq_true_iff]
  exact forall_congr' fun p => (mem_alphabet_iff x[p]).symm

/-! ### The bit of the last symbol that is discarded (R122) -/

/-- Symbols that agree at the positions 0 to 11, and at position 12 up to the lowest bit of the index, have one
value. -/
theorem valueFn_congr {x y : Symbols} (h : ∀ p : Pos, p.val ≤ 11 → x[p] = y[p])
    (h12 : symIndex x 12 / 2 = symIndex y 12 / 2) : valueFn x = valueFn y := by
  rw [valueFn, valueFn, reconstruct_tab13, reconstruct_tab13]
  congr 1
  funext p
  rw [rawFn_getElem, rawFn_getElem]
  rcases pos_le_eleven_or_eq_twelve p with hp | rfl
  · rw [h p hp]
  · exact contribOf_twelve_congr h12

theorem set_twelve_getElem_of_le (x : Symbols) (b : Byte) {p : Pos} (hp : p.val ≤ 11) : (x.set 12 b)[p] = x[p] :=
  Vector.getElem_set_ne (by decide) p.isLt (by omega)

theorem set_twelve_getElem_twelve (x : Symbols) (b : Byte) : (x.set 12 b)[(12 : Pos)] = b :=
  Vector.getElem_set_self (by decide)

theorem allLegal_set_twelve {x : Symbols} (h : AllLegal x) {b : Byte} (hb : legalSymbol b = true) :
    AllLegal (x.set 12 b) := by
  intro p
  rcases pos_le_eleven_or_eq_twelve p with hp | rfl
  · rw [set_twelve_getElem_of_le x b hp]
    exact h p
  · rwa [set_twelve_getElem_twelve]

theorem legalSymbol_readEncRom_nil (i : Group) : legalSymbol (readEncRom [] i) = true := by
  rw [← readDecRom_nil_lt_iff, readDecRom_readEncRom_nil, BitVec.toNat_setWidth]
  omega

/-- The last symbol replaced by the one of index `i` has index `i`. -/
theorem symIndex_set_twelve (x : Symbols) (i : Group) : symIndex (x.set 12 (readEncRom [] i)) 12 = i.toNat := by
  rw [symIndex, set_twelve_getElem_twelve, readDecRom_readEncRom_nil, BitVec.toNat_setWidth]
  omega

/-- Settles O28: the partner is legal too, and the two last indices have one half. -/
theorem discardedBitIsIgnored : Obligations.DiscardedBitIsIgnored := by
  refine ⟨fun s x ⟨_, hdec⟩ hlegal hodd => ?partner, by decide, by decide⟩
  case partner =>
    let i : Group := BitVec.ofNat 5 (symIndex x 12 - 1)
    have hlegal' : AllLegal (x.set 12 (readEncRom [] i)) := allLegal_set_twelve hlegal (legalSymbol_readEncRom_nil i)
    have hlt : symIndex x 12 < 32 := (readDecRom_nil_lt_iff _).2 (hlegal 12)
    have hhalf : symIndex x 12 / 2 = symIndex (x.set 12 (readEncRom [] i)) 12 / 2 := by
      rw [symIndex_set_twelve, BitVec.toNat_ofNat]
      omega
    refine ⟨_, _, _, _, exec_dec x s, exec_dec _ s, s.acceptDec_dec x, s.acceptDec_dec _, ?_, ?_, ?_⟩
    · rw [hdec, decTransaction_nil_valid, validFn_eq_true_iff]
      exact hlegal
    · rw [hdec, decTransaction_nil_valid, validFn_eq_true_iff]
      exact hlegal'
    · rw [hdec, decTransaction_nil_value hlegal, decTransaction_nil_value hlegal']
      exact valueFn_congr (fun p hp => (set_twelve_getElem_of_le x _ hp).symm) hhalf

end Sys2Proof.Machine
end

section
/-! PROOFS. The public-operations family: the result shape of a decode (R146), and a call's run, from its length check
through its one transaction to its return (R140 to R143, R145). -/

namespace Sys2Proof.Machine

/-! ### The other shape of a decode result -/

theorem DecRsp.toExcept_of_valid {r : DecRsp} (h : r.valid = true) : r.toExcept = .ok r.value := if_pos h

theorem DecRsp.toExcept_of_invalid {r : DecRsp} (h : r.valid = false) : r.toExcept = .error .invalidInput :=
  if_neg (Bool.eq_false_iff.1 h)

@[simp] theorem DecTxn.rsp_valid (t : DecTxn) : t.rsp.valid = t.valid := rfl

@[simp] theorem DecTxn.rsp_value (t : DecTxn) : t.rsp.value = t.value := rfl

/-- Settles O31: with the tables as built, `valid` is 1 exactly on 13 legal symbols, and the value is then theirs. -/
theorem resultShapesAgree : Obligations.ResultShapesAgree := by
  rintro s x ⟨-, hdec⟩
  refine ⟨_, _, exec_dec x s, s.acceptDec_decIn x, DecRsp.toExcept_of_valid, DecRsp.toExcept_of_invalid, ?legal,
    ?illegal⟩
  case legal =>
    intro hlegal
    have hvalid : (decTransaction s.decRom s.draw x).rsp.valid = true := by
      rw [DecTxn.rsp_valid, hdec, decTransaction_nil_valid, validFn_eq_true_iff]
      exact hlegal
    rw [DecRsp.toExcept_of_valid hvalid, DecTxn.rsp_value, hdec, decTransaction_nil_value hlegal]
  case illegal =>
    intro hillegal
    refine DecRsp.toExcept_of_invalid ?_
    rw [DecTxn.rsp_valid, hdec, decTransaction_nil_valid, Bool.eq_false_iff, ne_eq, validFn_eq_true_iff]
    exact hillegal

/-! ### What a pipeline drives after as many edges as it has slots -/

/-- The place behind the last slot is the one that is driven. -/
theorem getElem?_length_eq_shiftIn_snd {α : Type} (x : α) (l : List α) :
    (x :: l)[l.length]? = some (shiftIn x l).2 := by
  rw [← shiftIn_append x l, List.getElem?_append_right (shiftIn_length x l).le, shiftIn_length, Nat.sub_self]
  rfl

section Pipeline

variable {σ α : Type} {tick : σ → σ} {intake : σ → α} {slots : σ → List α}
  (htick : ∀ s, slots (tick s) = (shiftIn (intake s) (slots s)).1)

include htick

theorem length_iterate_of_shiftIn (n : Nat) (s : σ) : (slots (tick^[n] s)).length = (slots s).length := by
  induction n with
  | zero => rfl
  | succ n ih => rw [Function.iterate_succ_apply', htick, shiftIn_length, ih]

/-- What is in the intake moves one place at each edge (R19). -/
theorem getElem?_iterate_of_shiftIn {n : Nat} {s : σ} (hn : n ≤ (slots s).length) :
    (intake (tick^[n] s) :: slots (tick^[n] s))[n]? = some (intake s) := by
  induction n with
  | zero => rfl
  | succ n ih =>
    have hlt : n < (slots (tick^[n] s)).length := by
      rw [length_iterate_of_shiftIn htick]
      exact hn
    rw [Function.iterate_succ_apply', List.getElem?_cons_succ, htick, shiftIn_getElem? _ _ _ hlt]
    exact ih (Nat.le_of_succ_le hn)

/-- So the edge after as many edges as there are slots drives what was in the intake at first (R176). -/
theorem shiftIn_iterate_length_snd (s : σ) :
    (shiftIn (intake (tick^[(slots s).length] s)) (slots (tick^[(slots s).length] s))).2 = intake s := by
  rw [← Option.some.injEq, ← getElem?_length_eq_shiftIn_snd, length_iterate_of_shiftIn htick]
  exact getElem?_iterate_of_shiftIn htick le_rfl

end Pipeline

/-! ### Clock edges, one after another -/

theorem clock_iterate_setInputs (n : Nat) (s : State) (l : List Input) :
    State.clock^[n] (s.setInputs l) = (State.clock^[n] s).setInputs l := by
  induction n generalizing s with
  | zero => rfl
  | succ n ih => exact ih s.clock

/-- Edges alone change no table and take no input of the host. -/
theorem clock_iterate_keeps (n : Nat) (s : State) :
    (State.clock^[n] s).encRom = s.encRom ∧ (State.clock^[n] s).decRom = s.decRom ∧
      (State.clock^[n] s).inputs = s.inputs := by
  induction n generalizing s with
  | zero => exact ⟨rfl, rfl, rfl⟩
  | succ n ih => exact ih s.clock

/-- The encoder's response in the cycle `LAT_ENC` after its request's (R176), whatever else was in flight. -/
theorem clock_iterate_encRsp {s : State} {n : Nat} {sym : Symbols} (hn : s.encSlots.length = n)
    (h : s.encIn = some sym) :
    (State.clock^[n + 1] s).encRspStb = true ∧ (State.clock^[n + 1] s).encRspSym = packSym sym := by
  subst hn
  have hdriven := (shiftIn_iterate_length_snd State.clock_encSlots s).trans h
  rw [Function.iterate_succ_apply', State.clock_encRspStb, State.clock_encRspSym, hdriven]
  exact ⟨rfl, rfl⟩

/-- The decoder's response in the cycle `LAT_DEC` after its request's. -/
theorem clock_iterate_decRsp {s : State} {n : Nat} {r : DecRsp} (hn : s.decSlots.length = n) (h : s.decIn = some r) :
    (State.clock^[n + 1] s).decRspStb = true ∧ (State.clock^[n + 1] s).decRspValue = r.value ∧
      (State.clock^[n + 1] s).decRspValid = r.valid := by
  subst hn
  have hdriven := (shiftIn_iterate_length_snd State.clock_decSlots s).trans h
  rw [Function.iterate_succ_apply', State.clock_decRspStb, State.clock_decRspValue, State.clock_decRspValid, hdriven]
  exact ⟨rfl, rfl, rfl⟩

/-! ### The run of a call -/

theorem runSteps_one (s : State) : runSteps 1 s = step s := by
  rw [runSteps_succ]
  cases step s <;> rfl

theorem runCycle_nop (s : State) : runCycle PortCycle.nop s = .next s.clock := rfl

theorem runCycle_encRequest (v : Value) (s : State) :
    runCycle (PortCycle.encRequest v) s = .next (s.acceptEnc v).clock := rfl

theorem runCycle_decRequest (x : Symbols) (s : State) :
    runCycle (PortCycle.decRequest (packSym x)) s = .next (s.acceptDec x).clock := by
  have htaken : runCycle (PortCycle.decRequest (packSym x)) s = .next (s.acceptDec (unpackSym (packSym x))).clock := rfl
  rw [htaken, unpackSym_packSym]

theorem step_setInputs_cons (i : Input) (l : List Input) (s : State) :
    step (s.setInputs (i :: l)) = runInput i (s.setInputs l) := step_cons rfl

/-- NOP cycles are clock edges and nothing else (R54). -/
theorem runSteps_nops (n : Nat) (s : State) (l : List Input) :
    runSteps n (s.setInputs (List.replicate n (.cycle PortCycle.nop) ++ l)) =
      .next (State.clock^[n] (s.setInputs l)) := by
  induction n generalizing s with
  | zero => rfl
  | succ n ih =>
    have hstep : step (s.setInputs (List.replicate (n + 1) (.cycle PortCycle.nop) ++ l)) =
        .next (s.clock.setInputs (List.replicate n (.cycle PortCycle.nop) ++ l)) :=
      (step_setInputs_cons ..).trans (runCycle_nop _)
    rw [runSteps_succ_of_next hstep]
    exact ih s.clock

/-- A call that has passed its check comes to its return with its request's cycle and the unit's latency run (R145).
`t` is the state in which the unit has taken the request. -/
theorem runSteps_issueCall {s t : State} {rest : List Input} {request : PortCycle} {latency : Nat} {c : PendingCall}
    (hbegin : step s = .next (issueCall request latency c (s.setInputs rest)))
    (hrequest : ∀ l, runCycle request (s.setInputs l) = .next (t.setInputs l).clock) :
    runSteps (latency + 3) s = finishCall c (State.clock^[latency + 1] (t.setInputs rest)) := by
  let waiting : List Input := List.replicate latency (.cycle PortCycle.nop) ++ .await c :: rest
  have hcycle : step (issueCall request latency c (s.setInputs rest)) = .next (t.clock.setInputs waiting) :=
    (step_setInputs_cons (.cycle request) waiting s).trans (hrequest waiting)
  have hreturn : step (State.clock^[latency + 1] (t.setInputs (.await c :: rest))) =
      finishCall c (State.clock^[latency + 1] (t.setInputs rest)) := by
    rw [clock_iterate_setInputs, clock_iterate_setInputs]
    exact step_setInputs_cons (.await c) rest _
  calc runSteps (latency + 3) s
      = runSteps (latency + 2) (issueCall request latency c (s.setInputs rest)) := runSteps_succ_of_next hbegin
    _ = runSteps (latency + 1) (t.clock.setInputs waiting) := runSteps_succ_of_next hcycle
    _ = runSteps 1 (State.clock^[latency + 1] (t.setInputs (.await c :: rest))) :=
        runSteps_add_of_next (runSteps_nops latency t.clock (.await c :: rest))
    _ = finishCall c (State.clock^[latency + 1] (t.setInputs rest)) := (runSteps_one _).trans hreturn

/-! ### Encode calls -/

/-- An encode call that has passed its check returns the symbols of ENC and the tail of its destination. -/
theorem runSteps_encode {s : State} {v : Value} {dst : List Byte} {rest : List Input} (htables : s.TablesBuilt)
    (hbegin : step s =
      .next (issueCall (PortCycle.encRequest v) s.encSlots.length (.encode dst) (s.setInputs rest))) :
    ∃ t, runSteps (s.encSlots.length + 3) s = .next t ∧
      t.callResult = some (.encoded ((encFn v).toList ++ dst.drop 13)) ∧ t.inputs = rest ∧ t.TablesBuilt := by
  obtain ⟨henc, hdec⟩ := htables
  let u : State := (s.acceptEnc v).setInputs rest
  have hintake : u.encIn = some (encFn v) := by
    rw [State.setInputs_encIn, State.acceptEnc_encIn, henc]
    rfl
  obtain ⟨hstb, hsym⟩ := clock_iterate_encRsp (s := u) (n := s.encSlots.length) rfl hintake
  obtain ⟨hencRom, hdecRom, hinputs⟩ := clock_iterate_keeps (s.encSlots.length + 1) u
  refine ⟨_, (runSteps_issueCall (t := s.acceptEnc v) hbegin fun l =>
    runCycle_encRequest v (s.setInputs l)).trans (finishCall_encode hstb),
    ?_, hinputs, hencRom.trans henc, hdecRom.trans hdec⟩
  rw [State.setCallResult_callResult, hsym, unpackSym_packSym, writeDst]

/-- An encode call with room for 13 symbols issues its request (R140). -/
theorem step_encode {s : State} {call : Call} {v : Value} {dst : List Byte} {rest : List Input}
    (hcall : ∀ t, beginCall call t = callEncode v dst t) (h : s.inputs = .call call :: rest) (hdst : 13 ≤ dst.length) :
    step s = .next (issueCall (PortCycle.encRequest v) s.encSlots.length (.encode dst) (s.setInputs rest)) :=
  ((step_cons h).trans (hcall _)).trans (if_neg hdst.not_gt)

/-- Settles O52: the check decides, and a call that passes it runs through its one transaction. -/
theorem encodeUint64WritesThirteenSymbols : Obligations.EncodeUint64WritesThirteenSymbols := by
  refine ⟨fun s v dst rest htables _ hcall => ⟨fun hshort => ?short, fun hdst => ?writes⟩, by decide⟩
  case short => exact (step_cons hcall).trans (if_pos hshort)
  case writes => exact runSteps_encode htables (step_encode (fun _ => rfl) hcall hdst)

/-- Every symbol of ENC is an entry of `ENC_ROM`, which is a legal symbol. -/
theorem legalSymbol_of_mem_encFn {v : Value} {b : Byte} (h : b ∈ (encFn v).toList) : legalSymbol b = true := by
  obtain ⟨i, hi, rfl⟩ := Vector.getElem_of_mem (Vector.mem_toList_iff.1 h)
  have hsymbol : (encFn v)[i] = readEncRom [] (groupOf ⟨i, hi⟩ v) := encTransaction_sym_getElem [] v ⟨i, hi⟩
  rw [hsymbol]
  exact legalSymbol_readEncRom_nil _

/-- Settles O53: the call is an encode call whose destination is its own and is long enough. -/
theorem encodeToStringGivesThirteenCharacters : Obligations.EncodeToStringGivesThirteenCharacters := by
  refine ⟨fun s v rest htables _ hcall => ?returns, by decide⟩
  case returns =>
    obtain ⟨t, hrun, hresult, hinputs, -⟩ := runSteps_encode htables (step_encode (fun _ => rfl) hcall le_rfl)
    refine ⟨t, (encFn v).toList, hrun, ?_, rfl, Vector.length_toList, fun b => legalSymbol_of_mem_encFn, hinputs⟩
    rw [hresult, List.drop_replicate, List.replicate_zero, List.append_nil]

/-! ### Decode calls -/

theorem symbolsOfList_toList (x : Symbols) : symbolsOfList x.toList = x :=
  perPos_ext fun p => by
    rw [symbolsOfList, tab13_getElem, List.getD_eq_getElem _ _ (by simp), Vector.getElem_toList]
    rfl

/-- A decode call that has passed its check returns the pair of DEC; with `valid = 0` its value is the free one. -/
theorem runSteps_decode {s : State} {x : Symbols} {rest : List Input} (htables : s.TablesBuilt)
    (hbegin : step s =
      .next (issueCall (PortCycle.decRequest (packSym x)) s.decSlots.length .decode (s.setInputs rest))) :
    ∃ t, runSteps (s.decSlots.length + 3) s = .next t ∧
      t.callResult = some (.decoded (decTransaction [] s.draw x).value (validFn x)) ∧ t.inputs = rest ∧
      t.TablesBuilt := by
  obtain ⟨henc, hdec⟩ := htables
  let u : State := (s.acceptDec x).setInputs rest
  have hintake : u.decIn = some (decTransaction [] s.draw x).rsp := by
    rw [State.setInputs_decIn, State.acceptDec_decIn, hdec]
  obtain ⟨hstb, hvalue, hvalid⟩ := clock_iterate_decRsp (s := u) (n := s.decSlots.length) rfl hintake
  obtain ⟨hencRom, hdecRom, hinputs⟩ := clock_iterate_keeps (s.decSlots.length + 1) u
  refine ⟨_, (runSteps_issueCall (t := s.acceptDec x) hbegin fun l =>
    runCycle_decRequest x (s.setInputs l)).trans (finishCall_decode hstb),
    ?_, hinputs, hencRom.trans henc, hdecRom.trans hdec⟩
  rw [State.setCallResult_callResult, hvalue, hvalid, DecTxn.rsp_value, DecTxn.rsp_valid, decTransaction_nil_valid]

/-- Both decode calls begin alike (R143). -/
theorem step_decode {s : State} {call : Call} {src : List Byte} {rest : List Input}
    (hcall : call = .decodeUint64 src ∨ call = .decodeUint64FromString src) (h : s.inputs = .call call :: rest) :
    step s = callDecode src (s.setInputs rest) := by
  rcases hcall with rfl | rfl <;> exact step_cons h

/-- Settles O54: the length decides, and a call of 13 symbols runs through its one transaction. -/
theorem decodeCallsReturnValueAndValid : Obligations.DecodeCallsReturnValueAndValid := by
  refine ⟨fun s src rest call hcall hinputs => ?calls, by decide, by decide⟩
  case calls =>
    have hstep := (step_decode hcall hinputs).trans (callDecode_eq src (s.setInputs rest))
    refine ⟨fun hshort => hstep.trans (if_pos hshort),
      fun hlong => hstep.trans ((if_neg hlong.le.not_gt).trans (if_pos hlong)), fun htables _ x hsrc => ?returns⟩
    case returns =>
      have hlen : src.length = 13 := by rw [hsrc, Vector.length_toList]
      rw [if_neg hlen.not_lt, if_neg hlen.not_gt, hsrc, symbolsOfList_toList] at hstep
      obtain ⟨t, hrun, hresult, hrest, hbuilt⟩ := runSteps_decode htables hstep
      exact ⟨t, _, hrun, hresult, decTransaction_value, hrest, hbuilt⟩

end Sys2Proof.Machine
end

section
/-! PROOFS. The exceptions family: the contract violations are the only faults (R151). -/

namespace Sys2Proof.Machine

/-! ### No operation faults -/

/-- A request and a micro-operation answer a next state; BUILD does, or is refused. -/
theorem exec_ne_fault (i : Instr) (s : State) (r : Fault) : exec i s ≠ .fault r := by
  obtain ⟨v, rfl⟩ | ⟨x, rfl⟩ | ⟨a, rfl⟩ | ⟨p, rfl⟩ | ⟨p, rfl⟩ := instr_cases i
  · rw [exec_enc]; exact nofun
  · rw [exec_dec]; exact nofun
  · rw [exec_build]; split <;> exact nofun
  · rw [exec_encPos]; exact nofun
  · rw [exec_decPos]; exact nofun

/-- A request word is an operation, which does not fault, or is refused. -/
theorem runWord_ne_fault (w : RequestWord) (s : State) (r : Fault) : runWord w s ≠ .fault r := by
  unfold runWord
  split
  · exact exec_ne_fault _ s r
  · exact nofun

theorem runCycle_ne_fault (c : PortCycle) (s : State) (r : Fault) : runCycle c s ≠ .fault r := by
  rw [runCycle_eq]
  exact nofun

/-! ### A call faults on its length only -/

theorem callEncode_eq_fault_iff (v : Value) (dst : List Byte) (s : State) (r : Fault) :
    callEncode v dst s = .fault r ↔ dst.length < 13 ∧ Fault.encDstShort = r := by
  rw [callEncode_eq]
  split_ifs with hshort <;> simp [hshort]

theorem callDecode_eq_fault_iff (src : List Byte) (s : State) (r : Fault) :
    callDecode src s = .fault r ↔ src.length < 13 ∧ Fault.decSrcShort = r := by
  rw [callDecode_eq]
  split_ifs with hshort hlong <;> simp [hshort]

/-- A call that begins faults exactly with its violation (R140, R142, R143); the destination of
`encode_uint64_to_string` is its own and is never short (R141). -/
theorem beginCall_eq_fault_iff (y : Call) (s : State) (r : Fault) :
    beginCall y s = .fault r ↔ y.violation = some r := by
  cases y with
  | encodeUint64 v dst => exact (callEncode_eq_fault_iff v dst s r).trans (by simp [Call.violation])
  | encodeUint64ToString v => exact (callEncode_eq_fault_iff v (List.replicate 13 0) s r).trans (by simp [Call.violation])
  | decodeUint64 src => exact (callDecode_eq_fault_iff src s r).trans (by simp [Call.violation])
  | decodeUint64FromString str => exact (callDecode_eq_fault_iff str s r).trans (by simp [Call.violation])

/-! ### Inputs and steps -/

/-- Of the inputs only a call can fault. -/
theorem runInput_eq_fault_iff (i : Input) (s : State) (r : Fault) :
    runInput i s = .fault r ↔ ∃ y, i = .call y ∧ y.violation = some r := by
  cases i with
  | cycle c => exact iff_of_false (runCycle_ne_fault c s r) nofun
  | position u w => exact iff_of_false (runWord_ne_fault _ s r) nofun
  | elaborate w => exact iff_of_false (runWord_ne_fault _ s r) nofun
  | call y => exact (beginCall_eq_fault_iff y s r).trans (by simp)
  | await c =>
    obtain ⟨t, hnext, -⟩ := finishCall_next c s
    have hrun : runInput (.await c) s = .next t := hnext
    exact iff_of_false (by rw [hrun]; exact nofun) nofun

/-- Settles O50: a step runs its oldest input, and of the inputs only a call that violates its contract faults. -/
theorem onlyShortBuffersFault : Obligations.OnlyShortBuffersFault := by
  refine ⟨fun s r => ?steps, exec_ne_fault⟩
  case steps =>
    cases hinputs : s.inputs with
    | nil =>
      rw [step_nil hinputs]
      exact iff_of_false nofun nofun
    | cons i rest =>
      rw [step_cons hinputs, runInput_eq_fault_iff]
      simp

end Sys2Proof.Machine
end

section
/-! PROOFS. The reset-and-hazards family: what a pipeline holds and drives after any schedule of clock cycles (R19, R170,
R176), and the three statements read off it. -/

namespace Sys2Proof.Machine

/-! ### The port of a response, as what it answers -/

/-- What the encoder's response port answers: nothing while its strobe is 0 (R176). -/
def State.encPort (s : State) : Option Bus := if s.encRspStb then some s.encRspSym else none

/-- What the decoder's response port answers. -/
def State.decPort (s : State) : Option DecRsp := if s.decRspStb then some ⟨s.decRspValue, s.decRspValid⟩ else none

theorem State.encPort_isSome (s : State) : s.encPort.isSome = s.encRspStb := by
  unfold State.encPort
  cases s.encRspStb <;> rfl

theorem State.decPort_isSome (s : State) : s.decPort.isSome = s.decRspStb := by
  unfold State.decPort
  cases s.decRspStb <;> rfl

theorem State.encRspSym_of_encPort {s : State} {w : Bus} (h : s.encPort = some w) : s.encRspSym = w := by
  unfold State.encPort at h
  split at h
  · exact Option.some.inj h
  · cases h

theorem State.decRsp_of_decPort {s : State} {r : DecRsp} (h : s.decPort = some r) :
    s.decRspValue = r.value ∧ s.decRspValid = r.valid := by
  unfold State.decPort at h
  split at h
  · cases h
    exact ⟨rfl, rfl⟩
  · cases h

/-- An edge drives the encoder's port with what leaves its pipeline, whatever the idle data lines are. -/
@[simp] theorem State.clock_encPort (s : State) : s.clock.encPort = (shiftIn s.encIn s.encSlots).2.map packSym := by
  rw [State.encPort, State.clock_encRspStb, State.clock_encRspSym]
  cases (shiftIn s.encIn s.encSlots).2 <;> rfl

@[simp] theorem State.clock_decPort (s : State) : s.clock.decPort = (shiftIn s.decIn s.decSlots).2 := by
  rw [State.decPort, State.clock_decRspStb, State.clock_decRspValue, State.clock_decRspValid]
  cases (shiftIn s.decIn s.decSlots).2 <;> rfl

@[simp] theorem State.resetCycle_encPort (s : State) : s.resetCycle.encPort = none := rfl
@[simp] theorem State.resetCycle_decPort (s : State) : s.resetCycle.decPort = none := rfl

/-! ### One clock cycle of a unit -/

/-- The response the encoder computes for the request of a cycle, if there is one. -/
def encAnswer (rom : Memory) (c : PortCycle) : Option Symbols :=
  if c.encReqStb then some (encTransaction rom c.encReqValue).sym else none

/-- The response the decoder computes; `draw` is the index of the cycle's free value (log 3). -/
def decAnswer (rom : Memory) (draw : Nat) (c : PortCycle) : Option DecRsp :=
  if c.decReqStb then some (decTransaction rom draw (unpackSym c.decReqSym)).rsp else none

theorem encAnswer_isSome (rom : Memory) (c : PortCycle) : (encAnswer rom c).isSome = c.encReqStb := by
  unfold encAnswer
  cases c.encReqStb <;> rfl

theorem decAnswer_isSome (rom : Memory) (draw : Nat) (c : PortCycle) : (decAnswer rom draw c).isSome = c.decReqStb := by
  unfold decAnswer
  cases c.decReqStb <;> rfl

/-- One cycle of a pipeline: what its slots hold after it, and what it drives. A reset empties the slots (R170), any other
cycle shifts in `x` (R19). -/
def pipelineCycle {α : Type} (rst : Bool) (x : Option α) (slots : List (Option α)) : List (Option α) × Option α :=
  if rst then (slots.map fun _ => none, none) else shiftIn x slots

@[simp] theorem pipelineCycle_true {α : Type} (x : Option α) (slots : List (Option α)) :
    pipelineCycle true x slots = (slots.map fun _ => none, none) := rfl

@[simp] theorem pipelineCycle_false {α : Type} (x : Option α) (slots : List (Option α)) :
    pipelineCycle false x slots = shiftIn x slots := rfl

/-- Of a request only the response goes into the edge: the named values do not survive it (R15). -/
theorem runCycle_eq_clock {c : PortCycle} {s : State} (hrst : c.rst = false) (henc : s.encIn = none)
    (hdec : s.decIn = none) :
    runCycle c s = .next ((s.setEncIn (encAnswer s.encRom c)).setDecIn (decAnswer s.decRom s.draw c)).clock := by
  obtain ⟨rst, encReqStb, encReqValue, decReqStb, decReqSym⟩ := c
  cases s
  subst hrst henc hdec
  rw [runCycle_eq]
  cases encReqStb <;> cases decReqStb <;> rfl

/-- Everything a clock cycle does to a state in which no response waits for its edge. -/
structure AfterCycle (c : PortCycle) (s t : State) : Prop where
  encRom : t.encRom = s.encRom
  decRom : t.decRom = s.decRom
  enc : t.enc = none
  dec : t.dec = none
  encIn : t.encIn = none
  decIn : t.decIn = none
  inputs : t.inputs = s.inputs
  callResult : t.callResult = s.callResult
  draw : t.draw = s.draw + 1
  encSlots : t.encSlots = (pipelineCycle c.rst (encAnswer s.encRom c) s.encSlots).1
  decSlots : t.decSlots = (pipelineCycle c.rst (decAnswer s.decRom s.draw c) s.decSlots).1
  encPort : t.encPort = (pipelineCycle c.rst (encAnswer s.encRom c) s.encSlots).2.map packSym
  decPort : t.decPort = (pipelineCycle c.rst (decAnswer s.decRom s.draw c) s.decSlots).2

theorem runCycle_afterCycle (c : PortCycle) {s : State} (henc : s.encIn = none) (hdec : s.decIn = none) :
    ∃ t, runCycle c s = .next t ∧ AfterCycle c s t := by
  cases hrst : c.rst with
  | true =>
    refine ⟨s.resetCycle, if_pos hrst, ?_⟩
    constructor <;> simp [hrst]
  | false =>
    refine ⟨_, runCycle_eq_clock hrst henc hdec, ?_⟩
    constructor <;> simp [hrst]

/-! ### Any number of clock cycles of a unit -/

/-- What place `i` of a pipeline holds after `n` cycles of a schedule, if nothing was in flight before; `answer k` is the
response to the request of cycle `k`. Place 0 takes it at the edge of its own cycle, place `i + 1` takes place `i`
(R19), and a reset empties every place (R170). -/
def inFlight {α : Type} (cs : List PortCycle) (answer : Nat → Option α) : Nat → Nat → Option α
  | 0, _ => none
  | n + 1, 0 => if (cycleAt cs n).rst then none else answer n
  | n + 1, i + 1 => if (cycleAt cs n).rst then none else inFlight cs answer n i

section InFlight

variable {α : Type} {cs : List PortCycle} {answer : Nat → Option α}

/-- The last cycle is no reset, and `held` is what the place took at its edge. -/
theorem inFlight_eq_some_iff_of_last {n i : Nat} {x : α} {held : Option α}
    (h : inFlight cs answer (n + 1) i = if (cycleAt cs n).rst then none else held) :
    inFlight cs answer (n + 1) i = some x ↔ (cycleAt cs n).rst = false ∧ held = some x := by
  rw [h]
  cases (cycleAt cs n).rst <;> simp

/-- A place holds the response to the request as many cycles ago as its number says, if no reset has come since. -/
theorem inFlight_succ_eq_some_iff {n i : Nat} {x : α} :
    inFlight cs answer (n + 1) i = some x ↔
      i ≤ n ∧ answer (n - i) = some x ∧ ∀ k, n - i ≤ k → k ≤ n → (cycleAt cs k).rst = false := by
  induction i generalizing n with
  | zero =>
    rw [inFlight_eq_some_iff_of_last rfl, Nat.sub_zero]
    constructor
    · rintro ⟨hrst, hanswer⟩
      exact ⟨Nat.zero_le n, hanswer, fun k hlo hhi => Nat.le_antisymm hlo hhi ▸ hrst⟩
    · rintro ⟨-, hanswer, hrst⟩
      exact ⟨hrst n le_rfl le_rfl, hanswer⟩
  | succ i ih =>
    rw [inFlight_eq_some_iff_of_last rfl]
    cases n with
    | zero => exact iff_of_false nofun nofun
    | succ n =>
      rw [ih, Nat.succ_sub_succ, Nat.succ_le_succ_iff]
      constructor
      · rintro ⟨hlast, hi, hanswer, hrst⟩
        refine ⟨hi, hanswer, fun k hlo hhi => ?_⟩
        rcases Nat.of_le_succ hhi with hk | rfl
        · exact hrst k hlo hk
        · exact hlast
      · rintro ⟨hi, hanswer, hrst⟩
        exact ⟨hrst _ (Nat.le_succ_of_le (Nat.sub_le n i)) le_rfl, hi, hanswer,
          fun k hlo hhi => hrst k hlo (Nat.le_succ_of_le hhi)⟩

/-- So the place behind the last slot shows a response exactly where R176 says the unit responds. -/
theorem inFlight_succ_isSome_iff_responds {stb : PortCycle → Bool} (h : ∀ k, (answer k).isSome = stb (cycleAt cs k))
    (n i : Nat) : (inFlight cs answer (n + 1) i).isSome = true ↔ responds stb i cs n := by
  rw [Option.isSome_iff_exists]
  constructor
  · rintro ⟨x, hx⟩
    obtain ⟨hi, hanswer, hrst⟩ := inFlight_succ_eq_some_iff.1 hx
    have hstb : stb (cycleAt cs (n - i)) = true := by rw [← h, hanswer, Option.isSome_some]
    exact ⟨hi, ⟨hstb, hrst _ le_rfl (Nat.sub_le n i)⟩, hrst⟩
  · rintro ⟨hi, ⟨hstb, -⟩, hrst⟩
    obtain ⟨x, hx⟩ := Option.isSome_iff_exists.1 ((h (n - i)).trans hstb)
    exact ⟨x, inFlight_succ_eq_some_iff.2 ⟨hi, hx, hrst⟩⟩

theorem inFlight_succ_of_responds {stb : PortCycle → Bool} {n i : Nat} {x : α} (h : responds stb i cs n)
    (hx : answer (n - i) = some x) : inFlight cs answer (n + 1) i = some x := by
  obtain ⟨hi, -, hrst⟩ := h
  exact inFlight_succ_eq_some_iff.2 ⟨hi, hx, hrst⟩

/-- Shifting in the first of a sequence of places moves every one by one: the slots, and the place behind them that is
driven. -/
theorem shiftIn_map_range (f : Nat → α) (l : Nat) :
    shiftIn (f 0) ((List.range l).map fun i => f (i + 1)) = ((List.range l).map f, f l) := by
  induction l generalizing f with
  | zero => rfl
  | succ l ih =>
    rw [List.range_succ_eq_map, List.map_cons, List.map_cons, List.map_map, List.map_map, shiftIn_cons]
    exact congrArg (fun r : List α × α => (f 0 :: r.1, r.2)) (ih fun i => f (i + 1))

/-- A cycle takes the places of the slots, and drives the place behind them, as they are one cycle later. -/
theorem pipelineCycle_inFlight (n lat : Nat) :
    pipelineCycle (cycleAt cs n).rst (answer n) ((List.range lat).map (inFlight cs answer n)) =
      ((List.range lat).map (inFlight cs answer (n + 1)), inFlight cs answer (n + 1) lat) := by
  cases hrst : (cycleAt cs n).rst with
  | true =>
    have hempty (i : Nat) : inFlight cs answer (n + 1) i = none := by cases i <;> exact if_pos hrst
    simp [pipelineCycle, hempty]
  | false =>
    have hfirst : inFlight cs answer (n + 1) 0 = answer n := if_neg (Bool.eq_false_iff.1 hrst)
    have hnext (i : Nat) : inFlight cs answer (n + 1) (i + 1) = inFlight cs answer n i :=
      if_neg (Bool.eq_false_iff.1 hrst)
    have hshift := shiftIn_map_range (inFlight cs answer (n + 1)) lat
    simpa only [pipelineCycle_false, hfirst, hnext] using hshift

/-- Before the first cycle every place is empty. -/
theorem replicate_none_eq_inFlight (lat : Nat) :
    List.replicate lat none = (List.range lat).map (inFlight cs answer 0) := by
  have hempty : inFlight cs answer 0 = fun _ => none := funext fun i => by cases i <;> rfl
  rw [hempty, List.map_const', List.length_range]

end InFlight

/-! ### Any number of clock cycles of the machine -/

section Schedule

/-- The responses to the requests of a schedule that starts in `s`. -/
def encAnswers (s : State) (cs : List PortCycle) (k : Nat) : Option Symbols := encAnswer s.encRom (cycleAt cs k)

def decAnswers (s : State) (cs : List PortCycle) (k : Nat) : Option DecRsp :=
  decAnswer s.decRom (s.draw + k) (cycleAt cs k)

/-- The state `t` after `n` cycles of a schedule that starts in `s` with nothing in flight. -/
structure FollowsSchedule (s : State) (L M : Nat) (cs : List PortCycle) (n : Nat) (t : State) : Prop where
  encRom : t.encRom = s.encRom
  decRom : t.decRom = s.decRom
  encIn : t.encIn = none
  decIn : t.decIn = none
  inputs : t.inputs = (cs.drop n).map Input.cycle
  callResult : t.callResult = s.callResult
  draw : t.draw = s.draw + n
  encSlots : t.encSlots = (List.range L).map (inFlight cs (encAnswers s cs) n)
  decSlots : t.decSlots = (List.range M).map (inFlight cs (decAnswers s cs) n)

/-- And, once a cycle has run: no transaction is left, and the ports answer what the places behind the slots hold. -/
structure AnswersSchedule (s : State) (L M : Nat) (cs : List PortCycle) (n : Nat) (t : State) : Prop
    extends FollowsSchedule s L M cs n t where
  enc : t.enc = none
  dec : t.dec = none
  encPort : t.encPort = (inFlight cs (encAnswers s cs) n L).map packSym
  decPort : t.decPort = inFlight cs (decAnswers s cs) n M

variable {s : State} {L M : Nat} {cs : List PortCycle}

theorem headD_drop_eq_cycleAt (cs : List PortCycle) (n : Nat) : (cs.drop n).headD PortCycle.nop = cycleAt cs n := by
  rw [List.headD_eq_head?_getD, List.head?_drop, cycleAt, List.getD_eq_getElem?_getD]

/-- One more cycle of the schedule: each pipeline shifts its places by one. -/
theorem FollowsSchedule.step {n : Nat} {t : State} (h : FollowsSchedule s L M cs n t) :
    ∃ u, step t = .next u ∧ AnswersSchedule s L M cs (n + 1) u := by
  obtain ⟨u, hrun, hcycle⟩ := runCycle_afterCycle (cycleAt cs n)
    (s := t.setInputs ((cs.drop n).tail.map Input.cycle)) h.encIn h.decIn
  have hstep := step_schedule h.inputs
  rw [headD_drop_eq_cycleAt, hrun] at hstep
  have henc : pipelineCycle (cycleAt cs n).rst (encAnswer t.encRom (cycleAt cs n)) t.encSlots =
      ((List.range L).map (inFlight cs (encAnswers s cs) (n + 1)), inFlight cs (encAnswers s cs) (n + 1) L) := by
    rw [h.encRom, h.encSlots]
    exact pipelineCycle_inFlight (answer := encAnswers s cs) n L
  have hdec : pipelineCycle (cycleAt cs n).rst (decAnswer t.decRom t.draw (cycleAt cs n)) t.decSlots =
      ((List.range M).map (inFlight cs (decAnswers s cs) (n + 1)), inFlight cs (decAnswers s cs) (n + 1) M) := by
    rw [h.decRom, h.draw, h.decSlots]
    exact pipelineCycle_inFlight (answer := decAnswers s cs) n M
  exact ⟨u, hstep,
    { encRom := hcycle.encRom.trans h.encRom
      decRom := hcycle.decRom.trans h.decRom
      encIn := hcycle.encIn
      decIn := hcycle.decIn
      inputs := hcycle.inputs.trans (congrArg (List.map Input.cycle) List.tail_drop)
      callResult := hcycle.callResult.trans h.callResult
      draw := hcycle.draw.trans (congrArg (· + 1) h.draw)
      encSlots := hcycle.encSlots.trans (congrArg Prod.fst henc)
      decSlots := hcycle.decSlots.trans (congrArg Prod.fst hdec)
      enc := hcycle.enc
      dec := hcycle.dec
      encPort := hcycle.encPort.trans (congrArg (fun r => r.2.map packSym) henc)
      decPort := hcycle.decPort.trans (congrArg Prod.snd hdec) }⟩

/-- From nothing in flight, every run of one or more cycles of a schedule completes, and this is its state. -/
theorem runSteps_schedule (henc : s.encIn = none) (hdec : s.decIn = none)
    (hencSlots : s.encSlots = List.replicate L none) (hdecSlots : s.decSlots = List.replicate M none)
    (hinputs : s.inputs = cs.map Input.cycle) (n : Nat) :
    ∃ t, runSteps (n + 1) s = .next t ∧ AnswersSchedule s L M cs (n + 1) t := by
  induction n with
  | zero =>
    have hstart : FollowsSchedule s L M cs 0 s :=
      ⟨rfl, rfl, henc, hdec, hinputs, rfl, rfl, hencSlots.trans (replicate_none_eq_inFlight L),
        hdecSlots.trans (replicate_none_eq_inFlight M)⟩
    obtain ⟨t, hstep, ht⟩ := hstart.step
    exact ⟨t, runSteps_succ_of_next hstep, ht⟩
  | succ n ih =>
    obtain ⟨t, hrun, ht⟩ := ih
    obtain ⟨u, hstep, hu⟩ := ht.toFollowsSchedule.step
    exact ⟨u, runSteps_last_of_next hrun hstep, hu⟩

theorem inFlight_encAnswers_isSome_iff (n i : Nat) :
    (inFlight cs (encAnswers s cs) (n + 1) i).isSome = true ↔ responds PortCycle.encReqStb i cs n :=
  inFlight_succ_isSome_iff_responds (fun _ => encAnswer_isSome _ _) n i

theorem inFlight_decAnswers_isSome_iff (n i : Nat) :
    (inFlight cs (decAnswers s cs) (n + 1) i).isSome = true ↔ responds PortCycle.decReqStb i cs n :=
  inFlight_succ_isSome_iff_responds (fun _ => decAnswer_isSome _ _ _) n i

/-- The response strobes are those of R176. -/
theorem AnswersSchedule.encRspStb_iff {n : Nat} {t : State} (h : AnswersSchedule s L M cs (n + 1) t) :
    t.encRspStb = true ↔ responds PortCycle.encReqStb L cs n := by
  rw [← t.encPort_isSome, h.encPort, Option.isSome_map, inFlight_encAnswers_isSome_iff]

theorem AnswersSchedule.decRspStb_iff {n : Nat} {t : State} (h : AnswersSchedule s L M cs (n + 1) t) :
    t.decRspStb = true ↔ responds PortCycle.decReqStb M cs n := by
  rw [← t.decPort_isSome, h.decPort, inFlight_decAnswers_isSome_iff]

/-- The symbols the encoder responds with are those of the request `L` cycles ago. -/
theorem AnswersSchedule.encRspSym_of_responds {n : Nat} {t : State} (h : AnswersSchedule s L M cs (n + 1) t)
    (hresponds : responds PortCycle.encReqStb L cs n) :
    t.encRspSym = packSym (encTransaction s.encRom (cycleAt cs (n - L)).encReqValue).sym := by
  have hanswer : encAnswers s cs (n - L) = some _ := if_pos hresponds.2.1.1
  refine State.encRspSym_of_encPort ?_
  rw [h.encPort, inFlight_succ_of_responds hresponds hanswer, Option.map_some]

/-- The pair the decoder responds with is that of the request `M` cycles ago. -/
theorem AnswersSchedule.decRsp_of_responds {n : Nat} {t : State} (h : AnswersSchedule s L M cs (n + 1) t)
    (hresponds : responds PortCycle.decReqStb M cs n) :
    let d := decTransaction s.decRom (s.draw + (n - M)) (unpackSym (cycleAt cs (n - M)).decReqSym)
    t.decRspValue = d.value ∧ t.decRspValid = d.valid := by
  have hanswer : decAnswers s cs (n - M) = some _ := if_pos hresponds.2.1.1
  exact State.decRsp_of_decPort (h.decPort.trans (inFlight_succ_of_responds hresponds hanswer))

end Schedule

/-! ### The cycle law (R176) -/

/-- The slots after an edge are the intake and the old slots without the last. -/
theorem shiftIn_fst_eq_dropLast {α : Type} (x : α) (l : List α) : (shiftIn x l).1 = (x :: l).dropLast := by
  rw [← shiftIn_append, List.dropLast_concat]

/-- Slot 0, where there is one, takes the intake (R19). -/
theorem eq_of_shiftIn_fst_getElem?_zero {α : Type} {x r : α} {l : List α} (h : (shiftIn x l).1[0]? = some r) :
    r = x := by
  cases l with
  | nil => cases h
  | cons y l => exact (Option.some.inj h).symm

/-- The decoder's answer with the table as built. -/
theorem decAnswer_nil_spec (draw : Nat) (c : PortCycle) :
    (decAnswer [] draw c = none ↔ c.decReqStb = false) ∧
      ∀ x, decAnswer [] draw c = some x → x.valid = validFn (unpackSym c.decReqSym) ∧
        (x.valid = true → x.value = valueFn (unpackSym c.decReqSym)) := by
  refine ⟨?_, fun x hx => ?_⟩
  · rw [← Option.not_isSome_iff_eq_none, decAnswer_isSome, Bool.not_eq_true]
  · unfold decAnswer at hx
    split at hx
    · cases hx
      exact ⟨rfl, decTransaction_value⟩
    · cases hx

/-- One edge of both pipelines (R19). -/
theorem step_request_slots {s t : State} {y : PortCycle} {rest : List Input} (htables : s.TablesBuilt)
    (henc : s.encIn = none) (hdec : s.decIn = none) (hinputs : s.inputs = .cycle y :: rest) (hrst : y.rst = false)
    (hstep : step s = .next t) :
    t.encSlots = (shiftIn (encAnswer [] y) s.encSlots).1 ∧ t.decSlots = (shiftIn (decAnswer [] s.draw y) s.decSlots).1 := by
  obtain ⟨hencRom, hdecRom⟩ := htables
  obtain ⟨u, hrun, hcycle⟩ := runCycle_afterCycle y (s := s.setInputs rest) henc hdec
  rw [step_cycle hinputs, hrun, Host.Outcome.next.injEq] at hstep
  subst hstep
  have hencSlots := hcycle.encSlots
  have hdecSlots := hcycle.decSlots
  rw [hrst, State.setInputs_encRom, hencRom] at hencSlots
  rw [hrst, State.setInputs_decRom, hdecRom] at hdecSlots
  exact ⟨hencSlots, hdecSlots⟩

/-- Settles O42: the law of a whole schedule is that of `AnswersSchedule`, and one edge is a shift of both pipelines. -/
theorem responsesFollowTheCycleLaw : Obligations.ResponsesFollowTheCycleLaw := by
  refine ⟨?law, ?edge⟩
  case law =>
    rintro L M s cs n ⟨hencRom, hdecRom⟩ henc hdec hencSlots hdecSlots hinputs
    obtain ⟨t, hrun, ht⟩ := runSteps_schedule henc hdec hencSlots hdecSlots hinputs n
    refine ⟨t, hrun, ⟨ht.encRom.trans hencRom, ht.decRom.trans hdecRom⟩, ht.encRspStb_iff, ht.decRspStb_iff,
      fun hresponds => ?_, fun hresponds => ?_⟩
    · have hsym := ht.encRspSym_of_responds hresponds
      rw [hencRom] at hsym
      exact hsym
    · obtain ⟨hvalue, hvalid⟩ := ht.decRsp_of_responds hresponds
      rw [hdecRom] at hvalue hvalid
      refine ⟨hvalid, fun h => ?_⟩
      rw [hvalue]
      exact decTransaction_value (hvalid.symm.trans h)
  case edge =>
    intro s t y rest htables henc hdec hinputs hrst hstep
    obtain ⟨hencSlots, hdecSlots⟩ := step_request_slots htables henc hdec hinputs hrst hstep
    obtain ⟨hnone, hsome⟩ := decAnswer_nil_spec s.draw y
    rw [hencSlots, hdecSlots, shiftIn_length]
    refine ⟨shiftIn_fst_eq_dropLast _ _, rfl, fun i hi => shiftIn_getElem? _ _ _ hi, fun r hr => ?_⟩
    rw [eq_of_shiftIn_fst_getElem?_zero hr]
    exact ⟨hnone, hsome⟩

/-! ### A schedule in which nothing is accepted, and the end of one -/

/-- A cycle of a schedule is one of its cycles, or a NOP after its end. -/
theorem cycleAt_mem_or_eq_nop (cs : List PortCycle) (n : Nat) : cycleAt cs n ∈ cs ∨ cycleAt cs n = PortCycle.nop := by
  rw [cycleAt, List.getD_eq_getElem?_getD]
  cases hcycle : cs[n]? with
  | none => exact .inr rfl
  | some c => exact .inl (List.mem_of_getElem? hcycle)

/-- Without an accepted request there is no response. -/
theorem not_responds_of_forall_mem {stb : PortCycle → Bool} {cs : List PortCycle} (hnop : stb PortCycle.nop = false)
    (h : ∀ c ∈ cs, c.rst = true ∨ stb c = false) (lat n : Nat) :
    ¬ responds stb lat cs n := by
  rintro ⟨-, ⟨hstb, hrst⟩, -⟩
  rcases cycleAt_mem_or_eq_nop cs (n - lat) with hmem | heq
  · rcases h _ hmem with hreset | hquiet
    · exact Bool.false_ne_true (hrst.symm.trans hreset)
    · exact Bool.false_ne_true (hquiet.symm.trans hstb)
  · rw [heq, hnop] at hstb
    exact Bool.false_ne_true hstb

/-- Nothing is accepted after the end of a schedule, so there is no response `lat` cycles later. -/
theorem not_responds_of_length_add_le {stb : PortCycle → Bool} {cs : List PortCycle} {lat n : Nat}
    (hnop : stb PortCycle.nop = false) (h : cs.length + lat ≤ n) : ¬ responds stb lat cs n := by
  rintro ⟨-, ⟨hstb, -⟩, -⟩
  have hlen : cs.length ≤ n - lat := by omega
  rw [cycleAt, List.getD_eq_default _ _ hlen, hnop] at hstb
  exact Bool.false_ne_true hstb

/-- Settles O41: the cycle is a reset, which empties every slot, and a schedule that accepts nothing from there has no
response. -/
theorem resetCycleDropsEverythingInFlight : Obligations.ResetCycleDropsEverythingInFlight := by
  intro s y rest hinputs hrst
  let t : State := (s.setInputs rest).resetCycle
  have hstep : step s = .next t := (step_cycle hinputs).trans (if_pos hrst)
  have hencSlots : t.encSlots = List.replicate s.encSlots.length none := List.map_const' ..
  have hdecSlots : t.decSlots = List.replicate s.decSlots.length none := List.map_const' ..
  have hcomplete : t.Complete :=
    ⟨rfl, rfl, rfl, rfl, fun r hr => List.eq_of_mem_replicate (hencSlots ▸ hr),
      fun r hr => List.eq_of_mem_replicate (hdecSlots ▸ hr)⟩
  refine ⟨t, hstep, hcomplete, List.length_map _, List.length_map _, rfl, rfl, rfl, rfl, rfl, rfl, rfl, rfl,
    fun zs n hquiet => ?_⟩
  cases n with
  | zero => exact ⟨_, rfl, rfl, rfl⟩
  | succ n =>
    obtain ⟨u, hrun, hu⟩ := runSteps_schedule (s := t.setInputs (zs.map Input.cycle)) rfl rfl hencSlots hdecSlots rfl n
    have henc := not_responds_of_forall_mem rfl (fun z hz => (hquiet z hz).imp_right And.left) s.encSlots.length n
    have hdec := not_responds_of_forall_mem rfl (fun z hz => (hquiet z hz).imp_right And.right) s.decSlots.length n
    exact ⟨u, hrun, Bool.eq_false_iff.2 (mt hu.encRspStb_iff.1 henc), Bool.eq_false_iff.2 (mt hu.decRspStb_iff.1 hdec)⟩

/-- Slots that hold no response are the empty ones. -/
theorem map_range_eq_replicate_none {α : Type} {f : Nat → Option α} {lat : Nat}
    (h : ∀ i < lat, ¬ (f i).isSome = true) : (List.range lat).map f = List.replicate lat none := by
  refine List.eq_replicate_iff.2 ⟨by rw [List.length_map, List.length_range], fun r hr => ?_⟩
  obtain ⟨i, hi, rfl⟩ := List.mem_map.1 hr
  exact Option.not_isSome_iff_eq_none.1 (h i (List.mem_range.1 hi))

/-- Settles O57: after as many idle cycles no place of a pipeline is as old as a request of the schedule. -/
theorem runEndsInTheAfterResetState : Obligations.RunEndsInTheAfterResetState := by
  intro cs n henc hdec
  obtain ⟨n, rfl⟩ := Nat.exists_eq_add_one_of_ne_zero (Nat.ne_zero_of_lt henc)
  obtain ⟨t, hrun, ht⟩ := runSteps_schedule (s := State.reset.setInputs (cs.map Input.cycle)) rfl rfl rfl rfl rfl n
  have hencIdle (i : Nat) (hi : i ≤ Config.latEnc) : ¬ responds PortCycle.encReqStb i cs n :=
    not_responds_of_length_add_le rfl (by omega)
  have hdecIdle (i : Nat) (hi : i ≤ Config.latDec) : ¬ responds PortCycle.decReqStb i cs n :=
    not_responds_of_length_add_le rfl (by omega)
  refine ⟨t, hrun, ht.encRom, ht.decRom, ht.enc, ht.dec, ht.encIn, ht.decIn, ?_, ?_,
    Bool.eq_false_iff.2 (mt ht.encRspStb_iff.1 (hencIdle _ le_rfl)),
    Bool.eq_false_iff.2 (mt ht.decRspStb_iff.1 (hdecIdle _ le_rfl)), ?_, ht.callResult⟩
  · rw [ht.encSlots]
    exact map_range_eq_replicate_none fun i hi => mt (inFlight_encAnswers_isSome_iff n i).1 (hencIdle i hi.le)
  · rw [ht.decSlots]
    exact map_range_eq_replicate_none fun i hi => mt (inFlight_decAnswers_isSome_iff n i).1 (hdecIdle i hi.le)
  · rw [ht.inputs, List.drop_eq_nil_of_le (by omega)]
    rfl

end Sys2Proof.Machine
end

section
/-! PROOFS. Words and operations: the decoder and the encoder of request words are inverse to each other (R43 to R48),
and what the table's numbering gives a word. -/

namespace Sys2Proof

/-! ### Position words (R48) -/

theorem encode_encPosInstr (p : Pos) : encode (encPosInstr p) = .position .encoder (BitVec.ofNat 4 p.val) := by
  fin_cases p <;> rfl

theorem encode_decPosInstr (p : Pos) : encode (decPosInstr p) = .position .decoder (BitVec.ofNat 4 p.val) := by
  fin_cases p <;> rfl

theorem wf_encPosInstr (p : Pos) : (encPosInstr p).wf = true := by
  fin_cases p <;> rfl

theorem wf_decPosInstr (p : Pos) : (decPosInstr p).wf = true := by
  fin_cases p <;> rfl

theorem toNat_ofNat_pos (p : Pos) : (BitVec.ofNat 4 p.val).toNat = p.val := by
  rw [BitVec.toNat_ofNat]
  omega

theorem decode_encoder_position {w : BitVec 4} (hw : w.toNat < 13) :
    decode (.position .encoder w) = .ok (encPosInstr ⟨w.toNat, hw⟩) := dif_pos hw

theorem decode_decoder_position {w : BitVec 4} (hw : w.toNat < 13) :
    decode (.position .decoder w) = .ok (decPosInstr ⟨w.toNat, hw⟩) := dif_pos hw

/-- The words of the positions 13 to 15 are no operation of either unit. -/
theorem decode_position_of_le {w : BitVec 4} (hw : 13 ≤ w.toNat) (u : CodecUnit) :
    decode (.position u w) = .error .noSuchPosition := by
  cases u with
  | encoder => exact dif_neg hw.not_gt
  | decoder => exact dif_neg hw.not_gt

/-- The word of a position is the word of its number. -/
theorem decode_encoder_ofNat (p : Pos) : decode (.position .encoder (BitVec.ofNat 4 p.val)) = .ok (encPosInstr p) := by
  have hp := toNat_ofNat_pos p
  rw [decode_encoder_position (hp.trans_lt p.isLt)]
  simp only [hp]

theorem decode_decoder_ofNat (p : Pos) : decode (.position .decoder (BitVec.ofNat 4 p.val)) = .ok (decPosInstr p) := by
  have hp := toNat_ofNat_pos p
  rw [decode_decoder_position (hp.trans_lt p.isLt)]
  simp only [hp]

/-! ### BUILD's word (R47) -/

/-- Byte `i` of BUILD's word is its field from bit `248 - 8 i`. -/
theorem unpackAlphabet_getElem (w : BitVec 256) (i : Fin 32) :
    (unpackAlphabet w)[i] = w.extractLsb' (alphaLo i.val) 8 := by
  fin_cases i <;> rfl

/-- The 32 fields cover BUILD's word. -/
theorem unpackAlphabet_injective : Function.Injective unpackAlphabet := by
  intro u w h
  apply BitVec.eq_of_getLsbD_eq
  intro j hj
  have hi : (255 - j) / 8 < 32 := by omega
  have hlo : alphaLo ((255 - j) / 8) + j % 8 = j := by
    unfold alphaLo
    omega
  have hoff : j % 8 < 8 := Nat.mod_lt j (by decide)
  have hfield : u.extractLsb' (alphaLo ((255 - j) / 8)) 8 = w.extractLsb' (alphaLo ((255 - j) / 8)) 8 := by
    rw [← unpackAlphabet_getElem u ⟨_, hi⟩, ← unpackAlphabet_getElem w ⟨_, hi⟩, h]
  have hbit := congrArg (BitVec.getLsbD · (j % 8)) hfield
  simpa only [BitVec.getLsbD_extractLsb', hoff, decide_true, Bool.true_and, hlo] using hbit

theorem unpackAlphabet_packAlphabet_alphabet : unpackAlphabet (packAlphabet Config.alphabet) = Config.alphabet := by
  decide

theorem decode_elaboration_of_eq {w : BitVec 256} (hw : unpackAlphabet w = Config.alphabet) :
    decode (.elaboration w) = .ok (.build Config.alphabet) :=
  (if_pos hw).trans (congrArg (fun a => Except.ok (Instr.build a)) hw)

theorem decode_elaboration_of_ne {w : BitVec 256} (hw : unpackAlphabet w ≠ Config.alphabet) :
    decode (.elaboration w) = .error .illegalAlphabet := if_neg hw

/-- The only word of BUILD is that of the constant alphabet. -/
theorem eq_packAlphabet_of_unpackAlphabet {w : BitVec 256} (hw : unpackAlphabet w = Config.alphabet) :
    packAlphabet Config.alphabet = w :=
  unpackAlphabet_injective (unpackAlphabet_packAlphabet_alphabet.trans hw.symm)

/-! ### The two round trips -/

/-- Settles O6: the bus loses no symbol, BUILD has one legal operand, and a position is its own word. -/
theorem decodeEncodeRoundTrip : Obligations.DecodeEncodeRoundTrip := by
  intro i hwf
  obtain ⟨v, rfl⟩ | ⟨x, rfl⟩ | ⟨a, rfl⟩ | ⟨p, rfl⟩ | ⟨p, rfl⟩ := Machine.instr_cases i
  · rfl
  · exact congrArg (fun x => Except.ok (Instr.dec x)) (unpackSym_packSym x)
  · obtain rfl : a = Config.alphabet := of_decide_eq_true hwf
    exact decode_elaboration_of_eq unpackAlphabet_packAlphabet_alphabet
  · rw [encode_encPosInstr, decode_encoder_ofNat]
  · rw [encode_decPosInstr, decode_decoder_ofNat]

/-- The operation of a position word has that word. -/
theorem wf_and_encode_of_decode_position {u : CodecUnit} {w : BitVec 4} {i : Instr}
    (h : decode (.position u w) = .ok i) :
    i.wf = true ∧ encode i = .position u w := by
  by_cases hw : w.toNat < 13
  · cases u with
    | encoder =>
      rw [decode_encoder_position hw] at h
      cases h
      exact ⟨wf_encPosInstr _, by rw [encode_encPosInstr, BitVec.ofNat_toNat, BitVec.setWidth_eq]⟩
    | decoder =>
      rw [decode_decoder_position hw] at h
      cases h
      exact ⟨wf_decPosInstr _, by rw [encode_decPosInstr, BitVec.ofNat_toNat, BitVec.setWidth_eq]⟩
  · rw [decode_position_of_le (Nat.le_of_not_lt hw)] at h
    cases h

/-- Settles O7, port by port. -/
theorem encodeDecodeRoundTrip : Obligations.EncodeDecodeRoundTrip := by
  intro w i h
  cases w with
  | encReq w =>
    cases h
    exact ⟨rfl, rfl⟩
  | decReq w =>
    cases h
    exact ⟨rfl, congrArg RequestWord.decReq (packSym_unpackSym w)⟩
  | position u w => exact wf_and_encode_of_decode_position h
  | elaboration w =>
    by_cases hw : unpackAlphabet w = Config.alphabet
    · rw [decode_elaboration_of_eq hw] at h
      cases h
      exact ⟨by decide, congrArg RequestWord.elaboration (eq_packAlphabet_of_unpackAlphabet hw)⟩
    · rw [decode_elaboration_of_ne hw] at h
      cases h

/-- Settles O5. -/
theorem writtenOutWordsDecode : Obligations.WrittenOutWordsDecode := by
  unfold Obligations.WrittenOutWordsDecode
  decide

/-! ### The table's numbering -/

theorem decodeTableWord_of_request {nbits w : Nat} {r : RequestWord} (h : requestOfTable nbits w = some r) :
    decodeTableWord nbits w = (decode r).toOption := by
  unfold decodeTableWord
  rw [h]

/-- A row of 8 bits is a position word of the encoder, in its low four bits (log 9). -/
theorem decodeTableWord_eight (w : Nat) :
    decodeTableWord 8 w = (decode (.position .encoder (BitVec.ofNat 4 w))).toOption := decodeTableWord_of_request rfl

/-- Settles O10: the width names the port, and the word on it is the number. -/
theorem tableWordsDecodeByWidth : Obligations.TableWordsDecodeByWidth := by
  refine ⟨fun w => ?enc, fun w => ?dec, fun w => ?build, fun p => ?position, fun w hlo hhi => ?refused⟩
  case enc =>
    have hrow : requestOfTable 64 w.toNat = some (.encReq (BitVec.ofNat 64 w.toNat)) := rfl
    rw [decodeTableWord_of_request hrow, BitVec.ofNat_toNat, BitVec.setWidth_eq]
    rfl
  case dec =>
    have hrow : requestOfTable 104 w.toNat = some (.decReq (BitVec.ofNat 104 w.toNat)) := rfl
    rw [decodeTableWord_of_request hrow, BitVec.ofNat_toNat, BitVec.setWidth_eq]
    rfl
  case build =>
    have hrow : requestOfTable 256 w.toNat = some (.elaboration (BitVec.ofNat 256 w.toNat)) := rfl
    rw [decodeTableWord_of_request hrow, BitVec.ofNat_toNat, BitVec.setWidth_eq]
    split_ifs with hw
    · rw [decode_elaboration_of_eq hw]
      rfl
    · rw [decode_elaboration_of_ne hw]
      rfl
  case position =>
    rw [decodeTableWord_eight, decode_encoder_ofNat]
    rfl
  case refused =>
    have hw : 13 ≤ (BitVec.ofNat 4 w).toNat := by
      rw [BitVec.toNat_ofNat]
      omega
    rw [decodeTableWord_eight, decode_position_of_le hw]
    rfl

end Sys2Proof
end

section
/-! PROOFS. The codec as a whole: the fields of the encoded form (R40, R71), its image (R90, R91), standard base32
(R94), and the two round trips (R124, R127). -/

namespace Sys2Proof.Machine

/-! ### The 65-bit form (R40) -/

/-- Settles O14, as numbers: the form is twice the integer, so a field of it is the field of the integer one place
lower; at position 12 there is no lower place, and the shift to the left is the doubling. -/
theorem groupsAreTheFieldsOfTheEncodedForm : Obligations.GroupsAreTheFieldsOfTheEncodedForm := by
  intro v p
  apply BitVec.eq_of_toNat_eq
  rw [BitVec.extractLsb'_toNat, toNat_append_zero, Nat.shiftRight_eq_div_pow]
  rcases pos_le_eleven_or_eq_twelve p with hp | rfl
  · have hplace : 60 - 5 * p.val = 59 - 5 * p.val + 1 := by omega
    rw [groupOf_eq_extractLsb' hp, BitVec.extractLsb'_toNat, Nat.shiftRight_eq_div_pow, hplace,
      Nat.pow_succ 2 (59 - 5 * p.val), Nat.mul_div_mul_right _ _ Nat.two_pos]
  · have hplace : 60 - 5 * (12 : Pos).val = 0 := rfl
    rw [groupOf_twelve_eq_append, ← setWidth_shiftLeft_one, BitVec.toNat_setWidth, BitVec.toNat_shiftLeft,
      Nat.shiftLeft_eq, hplace]
    omega

/-- Bit `j + 1` of the form is bit `j` of the integer, and stands in the group of one position. -/
theorem groupOf_getLsbD (p : Pos) (v : Value) {i j : Nat} (hi : i < 5) (hj : j + 1 = 60 - 5 * p.val + i) :
    (groupOf p v).getLsbD i = v.getLsbD j := by
  rw [groupsAreTheFieldsOfTheEncodedForm, BitVec.getLsbD_extractLsb', ← hj, BitVec.getLsbD_append]
  simp [hi]

/-- The 13 groups cover the integer. -/
theorem eq_of_groupOf_eq {v w : Value} (h : ∀ p : Pos, groupOf p v = groupOf p w) : v = w := by
  apply BitVec.eq_of_getLsbD_eq
  intro j hj
  let p : Pos := ⟨(63 - j) / 5, by omega⟩
  have hoff : (j + 1) % 5 < 5 := Nat.mod_lt _ (by decide)
  have hplace : j + 1 = 60 - 5 * p.val + (j + 1) % 5 := by
    show j + 1 = 60 - 5 * ((63 - j) / 5) + (j + 1) % 5
    omega
  rw [← groupOf_getLsbD p v hoff hplace, ← groupOf_getLsbD p w hoff hplace, h]

/-- The last group is even (R84). -/
theorem groupOf_twelve_even (v : Value) : (groupOf 12 v).toNat % 2 = 0 := by
  rw [groupOf_twelve_eq_append, toNat_append_zero, Nat.mul_mod_left]

/-! ### The image of the encoder (R90, R91) -/

@[simp] theorem encFn_getElem (v : Value) (p : Pos) : (encFn v)[p] = readEncRom [] (groupOf p v) :=
  encTransaction_sym_getElem [] v p

theorem allLegal_encFn (v : Value) : AllLegal (encFn v) := fun p => by
  rw [encFn_getElem]
  exact legalSymbol_readEncRom_nil _

theorem symIndex_encFn (v : Value) (p : Pos) : symIndex (encFn v) p = (groupOf p v).toNat := by
  rw [symIndex, encFn_getElem, readDecRom_readEncRom_nil, BitVec.toNat_setWidth]
  omega

theorem canonical_encFn (v : Value) : Canonical (encFn v) := by
  refine ⟨allLegal_encFn v, ?_⟩
  rw [symIndex_encFn, groupOf_twelve_even]

/-- The integer with the group `g` at position `p` and zeros elsewhere. -/
theorem groupOf_shiftLeft {p : Pos} (hp : p.val ≤ 11) (g : Group) :
    groupOf p (g.setWidth 64 <<< (59 - 5 * p.val)) = g := by
  rw [groupOf_eq_extractLsb' hp]
  apply BitVec.eq_of_getLsbD_eq
  intro i hi
  have h64 : 59 - 5 * p.val + i < 64 := by omega
  have hle : ¬ 59 - 5 * p.val + i < 59 - 5 * p.val := by omega
  rw [BitVec.getLsbD_extractLsb', BitVec.getLsbD_shiftLeft, Nat.add_sub_cancel_left, BitVec.getLsbD_setWidth]
  simp [hi, h64, hle, show i < 64 by omega]

/-- Settles O16. -/
theorem encOutputEndsInAnEvenSymbol : Obligations.EncOutputEndsInAnEvenSymbol := by
  refine ⟨canonical_encFn, fun p g hp => ⟨g.setWidth 64 <<< (59 - 5 * p.val), ?_⟩, by decide, by decide⟩
  rw [encFn_getElem, groupOf_shiftLeft hp]

/-- No symbol hides a group, and no group hides a bit of the integer. -/
theorem encFn_injective : Function.Injective encFn := fun v w h =>
  eq_of_groupOf_eq fun p => readEncRom_nil_injective (by rw [← encFn_getElem, h, encFn_getElem])

/-! ### Encoding what was decoded (R127) -/

theorem symIndex_lt {x : Symbols} (h : AllLegal x) (p : Pos) : symIndex x p < 32 := (readDecRom_nil_lt_iff _).2 (h p)

theorem rawFn_lt {x : Symbols} (h : AllLegal x) (p : Pos) : (rawFn x)[p].toNat < 32 := by
  rw [rawFn_getElem]
  exact symIndex_lt h p

/-- The groups 0 to 11 of a decoded value are the indices of the symbols. -/
theorem groupOf_valueFn {x : Symbols} (h : AllLegal x) {p : Pos} (hp : p.val ≤ 11) :
    groupOf p (valueFn x) = (readDecRom [] x[p]).setWidth 5 := by
  rw [groupOf_eq_extractLsb' hp, valueFn, extractLsb'_reconstruct (rawFn_lt h) hp, rawFn_getElem]

/-- The last one is the last index made even. -/
theorem groupOf_twelve_valueFn {x : Symbols} (h : AllLegal x) :
    groupOf 12 (valueFn x) = BitVec.ofNat 5 (symIndex x 12 / 2 * 2) := by
  have hlt := rawFn_lt h 12
  apply BitVec.eq_of_toNat_eq
  rw [groupOf_twelve_eq_append, toNat_append_zero, valueFn, extractLsb'_zero_reconstruct (rawFn_lt h),
    BitVec.extractLsb'_toNat, Nat.shiftRight_eq_div_pow, BitVec.toNat_ofNat, symIndex, ← rawFn_getElem]
  omega

/-- Decoding and encoding again makes the last index even and changes nothing else. -/
theorem encFn_valueFn {x : Symbols} (h : AllLegal x) :
    encFn (valueFn x) = x.set 12 (readEncRom [] (BitVec.ofNat 5 (symIndex x 12 / 2 * 2))) := by
  apply perPos_ext
  intro p
  rw [encFn_getElem]
  rcases pos_le_eleven_or_eq_twelve p with hp | rfl
  · rw [groupOf_valueFn h hp, readEncRom_readDecRom_nil (h p), set_twelve_getElem_of_le _ _ hp]
  · rw [groupOf_twelve_valueFn h, set_twelve_getElem_twelve]

theorem encFn_valueFn_of_canonical {x : Symbols} (h : Canonical x) : encFn (valueFn x) = x := by
  obtain ⟨hlegal, heven⟩ := h
  have hindex : BitVec.ofNat 5 (symIndex x 12 / 2 * 2) = (readDecRom [] x[(12 : Pos)]).setWidth 5 := by
    apply BitVec.eq_of_toNat_eq
    rw [BitVec.toNat_ofNat, BitVec.toNat_setWidth, ← symIndex]
    omega
  rw [encFn_valueFn hlegal, hindex, readEncRom_readDecRom_nil (hlegal 12)]
  exact Vector.set_getElem_self (by decide)

/-- Settles O17: a canonical form is the encoded form of its own value. -/
theorem encIsInjectiveOntoTheCanonicalForms : Obligations.EncIsInjectiveOntoTheCanonicalForms := by
  refine ⟨fun _ _ h => encFn_injective h, fun x => ⟨fun h => ⟨valueFn x, encFn_valueFn_of_canonical h⟩, ?_⟩⟩
  rintro ⟨v, rfl⟩
  exact canonical_encFn v

/-- Settles O30. Two inputs of one value are the same up to their last index made even, by `encFn_valueFn` for each. -/
theorem encodeOfDecodeNormalises : Obligations.EncodeOfDecodeNormalises := by
  refine ⟨fun x h => ⟨(validFn_eq_true_iff x).2 h, ⟨fun heq => ?_, encFn_valueFn_of_canonical⟩, encFn_valueFn h⟩,
    fun x y hx hy => ⟨fun hvalue => ?_, fun ⟨hsame, hhalf⟩ => valueFn_congr hsame hhalf⟩⟩
  · rw [← heq]
    exact canonical_encFn _
  · have hindex {z : Symbols} (hz : AllLegal z) : symIndex z 12 / 2 = (groupOf 12 (valueFn z)).toNat / 2 := by
      have hlt := symIndex_lt hz 12
      rw [groupOf_twelve_valueFn hz, BitVec.toNat_ofNat]
      omega
    have hsymbol {z : Symbols} (hz : AllLegal z) {p : Pos} (hp : p.val ≤ 11) :
        z[p] = readEncRom [] (groupOf p (valueFn z)) := by
      rw [groupOf_valueFn hz hp, readEncRom_readDecRom_nil (hz p)]
    exact ⟨fun p hp => by rw [hsymbol hx hp, hsymbol hy hp, hvalue], by rw [hindex hx, hindex hy, hvalue]⟩

/-! ### Decoding what was encoded (R124) -/

@[simp] theorem valueFn_encFn (v : Value) : valueFn (encFn v) = v :=
  encFn_injective (encFn_valueFn_of_canonical (canonical_encFn v))

theorem decTransaction_encFn_rsp (draw : Nat) (v : Value) : (decTransaction [] draw (encFn v)).rsp = ⟨v, true⟩ := by
  have hvalid : (decTransaction [] draw (encFn v)).valid = true := (validFn_eq_true_iff _).2 (allLegal_encFn v)
  rw [DecTxn.rsp, hvalid, decTransaction_nil_value (allLegal_encFn v), valueFn_encFn]

/-- Settles O29: what ENC answers is a canonical form, and the value of a canonical form is the integer it encodes. -/
theorem decodeOfEncodeIsTheInteger : Obligations.DecodeOfEncodeIsTheInteger := by
  rintro s n ⟨henc, hdec⟩
  have hsym : (encTransaction s.encRom n).sym = encFn n := by rw [henc, encFn]
  have hrsp : (decTransaction (s.acceptEnc n).decRom (s.acceptEnc n).draw (encFn n)).rsp = ⟨n, true⟩ := by
    rw [State.acceptEnc_decRom, hdec, decTransaction_encFn_rsp]
  refine ⟨_, _, encFn n, _, exec_enc n s, ?_, exec_dec _ _, State.acceptDec_dec _ _, ?_, ?_, ?_, ?_⟩
  · rw [State.acceptEnc_encIn, hsym]
  · exact congrArg DecRsp.valid hrsp
  · exact congrArg DecRsp.value hrsp
  · rw [State.acceptDec_decIn, hrsp]
  · exact congrArg (fun x => Except.ok (Instr.dec x)) (unpackSym_packSym _)

/-! ### Standard base32 (R94) -/

/-- The bits of the eight bytes, one after another, are the bits of the integer from the highest. -/
theorem flatMap_bitsOfByte_bytesOf (v : Value) :
    (bytesOf v).flatMap bitsOfByte = (List.range 64).map fun k => v.getLsbD (63 - k) := by
  have hbyte (i : Nat) (hi : i < 8) :
      bitsOfByte (v.extractLsb' (56 - 8 * i) 8) = (List.range 8).map fun j => v.getLsbD (63 - (8 * i + j)) := by
    refine List.map_congr_left fun j hj => ?_
    have hj : j < 8 := List.mem_range.1 hj
    have hplace : 56 - 8 * i + (7 - j) = 63 - (8 * i + j) := by omega
    have hoff : 7 - j < 8 := by omega
    rw [BitVec.getLsbD_extractLsb', decide_eq_true hoff, Bool.true_and, hplace]
  have hcut (f : Nat → Bool) :
      ((List.range 8).flatMap fun i => (List.range 8).map fun j => f (8 * i + j)) = (List.range 64).map f := rfl
  rw [bytesOf, List.flatMap_map, ← hcut fun k => v.getLsbD (63 - k)]
  exact List.flatMap_congr fun i hi => hbyte i (List.mem_range.1 hi)

/-- 64 bits are cut into 13 fives, the last one filled with a zero. -/
theorem cutFives_map_range (f : Nat → Bool) :
    cutFives 64 ((List.range 64).map f) =
      (List.finRange 13).map fun p => (List.range 5).map fun i => decide (5 * p.val + i < 64) && f (5 * p.val + i) :=
  rfl

/-- The five of position `p` is its group, from the highest bit. -/
theorem fiveBits_eq_groupOf (v : Value) (p : Pos) :
    ((List.range 5).map fun i => decide (5 * p.val + i < 64) && v.getLsbD (63 - (5 * p.val + i))) =
      (List.range 5).map fun i => (groupOf p v).getLsbD (4 - i) := by
  refine List.map_congr_left fun i hi => ?_
  have hi : i < 5 := List.mem_range.1 hi
  by_cases hlt : 5 * p.val + i < 64
  · have hplace : 63 - (5 * p.val + i) + 1 = 60 - 5 * p.val + (4 - i) := by omega
    rw [groupOf_getLsbD p v (by omega) hplace, decide_eq_true hlt, Bool.true_and]
  · obtain rfl : p = 12 := Fin.ext (by omega)
    obtain rfl : i = 4 := by omega
    rw [decide_eq_false hlt, Bool.false_and, groupOf_twelve_eq_append, BitVec.getLsbD_append]
    rfl

theorem natOfBits_group : ∀ g : Group, natOfBits ((List.range 5).map fun i => g.getLsbD (4 - i)) = g.toNat := by decide

theorem symbolCode_alphabetChars_getD (g : Group) :
    Config.symbolCode (Config.alphabetChars.getD g.toNat ' ') = readEncRom [] g := by
  revert g
  decide

theorem encFn_toList (v : Value) : (encFn v).toList = (List.finRange 13).map fun p => readEncRom [] (groupOf p v) := rfl

/-- Settles O18: both cut the same bit string into the same fives and look each up in one alphabet. -/
theorem encMatchesStandardBase32 : Obligations.EncMatchesStandardBase32 := by
  intro v
  have hlength : ((List.range 64).map fun k => v.getLsbD (63 - k)).length = 64 := by
    rw [List.length_map, List.length_range]
  rw [stdBase32, flatMap_bitsOfByte_bytesOf, hlength, cutFives_map_range, List.map_map, encFn_toList]
  refine List.map_congr_left fun p _ => ?_
  rw [Function.comp_apply, fiveBits_eq_groupOf, natOfBits_group, symbolCode_alphabetChars_getD]

end Sys2Proof.Machine
end

section
/-! PROOFS. Inputs and steps: what each kind of input does to the state, what a step refuses and when it completes
(U4, U6, U17), and the steps that run a word or a cycle. -/

namespace Sys2Proof.Machine

/-! ### Request words -/

theorem runWord_of_ok {w : RequestWord} {i : Instr} (h : decode w = .ok i) (s : State) : runWord w s = exec i s := by
  unfold runWord
  rw [h]

theorem runWord_of_error {w : RequestWord} {r : Reject} (h : decode w = .error r) (s : State) :
    runWord w s = .refused (Refusal.ofReject r) := by
  unfold runWord
  rw [h]

/-- A position word below 13 runs the micro-operation of its position. -/
theorem runWord_encoder_position {w : BitVec 4} (hw : w.toNat < 13) (s : State) :
    runWord (.position .encoder w) s = .next (s.encPosition ⟨w.toNat, hw⟩) :=
  (runWord_of_ok (decode_encoder_position hw) s).trans (exec_encPos _ s)

theorem runWord_decoder_position {w : BitVec 4} (hw : w.toNat < 13) (s : State) :
    runWord (.position .decoder w) s = .next (s.decPosition ⟨w.toNat, hw⟩) :=
  (runWord_of_ok (decode_decoder_position hw) s).trans (exec_decPos _ s)

theorem runWord_position_of_le {w : BitVec 4} (hw : 13 ≤ w.toNat) (u : CodecUnit) (s : State) :
    runWord (.position u w) s = .refused .noSuchPosition := runWord_of_error (decode_position_of_le hw u) s

/-- BUILD's word runs BUILD. -/
theorem runWord_elaboration_of_eq {w : BitVec 256} (hw : unpackAlphabet w = Config.alphabet) (s : State) :
    runWord (.elaboration w) s = .next (s.buildTables Config.alphabet) :=
  (runWord_of_ok (decode_elaboration_of_eq hw) s).trans ((exec_build _ s).trans (if_pos rfl))

theorem runWord_elaboration_of_ne {w : BitVec 256} (hw : unpackAlphabet w ≠ Config.alphabet) (s : State) :
    runWord (.elaboration w) s = .refused .illegalAlphabet := runWord_of_error (decode_elaboration_of_ne hw) s

/-- Settles O8: a word from 13 is refused by the decoder, and so by the step; one below is a position. -/
theorem positionWordsThirteenToFifteenAreRefused : Obligations.PositionWordsThirteenToFifteenAreRefused := by
  refine ⟨fun u w => ?position, fun w => ⟨w, rfl⟩, fun w => ⟨unpackSym w, rfl⟩⟩
  case position =>
    have hok (hw : w.toNat < 13) : ∃ i, decode (.position u w) = .ok i := by
      cases u with
      | encoder => exact ⟨_, decode_encoder_position hw⟩
      | decoder => exact ⟨_, decode_decoder_position hw⟩
    refine ⟨⟨fun hw => decode_position_of_le hw u, fun herr => ?_⟩, ⟨hok, ?_⟩,
      fun s rest hinputs hw => (step_cons hinputs).trans (runWord_position_of_le hw u _)⟩
    · by_contra hw
      obtain ⟨i, hi⟩ := hok (Nat.lt_of_not_le hw)
      exact nomatch hi.symm.trans herr
    · rintro ⟨i, hi⟩
      by_contra hw
      exact nomatch hi.symm.trans (decode_position_of_le (Nat.le_of_not_lt hw) u)

/-- Settles O34. -/
theorem buildRefusesEveryOtherAlphabet : Obligations.BuildRefusesEveryOtherAlphabet :=
  ⟨fun s a ha => (exec_build a s).trans (if_neg ha),
    fun _ _ _ hinputs hw => (step_cons hinputs).trans (runWord_elaboration_of_ne hw _)⟩

/-- Settles O38: a request word's input is a cycle whose other strobe is 0, and any other word is run by itself. -/
theorem stepRunsTheDecodedOperation : Obligations.StepRunsTheDecodedOperation := by
  intro s w rest hinputs
  have hstep := step_cons hinputs
  refine ⟨fun i hi => ?legal, fun r hr => ?refused⟩
  case legal =>
    cases w with
    | encReq v =>
      cases hi
      exact hstep.trans (runCycle_encRequest v _)
    | decReq w =>
      cases hi
      exact hstep.trans (runCycle_eq _ _)
    | position u w => exact hstep.trans (runWord_of_ok hi _)
    | elaboration w => exact hstep.trans (runWord_of_ok hi _)
  case refused =>
    cases w with
    | encReq v => cases hr
    | decReq w => cases hr
    | position u w => exact hstep.trans (runWord_of_error hr _)
    | elaboration w => exact hstep.trans (runWord_of_error hr _)

/-- The width of a row of the table is that of a port exactly for the words of the ports. -/
theorem requestOfTable_cases {nbits w : Nat} {r : RequestWord} (h : requestOfTable nbits w = some r) :
    ((nbits = 64 ∨ nbits = 104) ∧ ((∃ v, r = .encReq v) ∨ ∃ x, r = .decReq x)) ∨
    (¬ (nbits = 64 ∨ nbits = 104) ∧ ((∃ a, r = .elaboration a) ∨ ∃ p, r = .position .encoder p)) := by
  unfold requestOfTable at h
  split_ifs at h with h64 h104 h256 hpos <;> cases h
  · exact .inl ⟨.inl h64, .inl ⟨_, rfl⟩⟩
  · exact .inl ⟨.inr h104, .inr ⟨_, rfl⟩⟩
  · exact .inr ⟨by omega, .inl ⟨_, rfl⟩⟩
  · exact .inr ⟨by omega, .inr ⟨_, rfl⟩⟩

theorem withFetchWord_of_request {nbits w : Nat} {r : RequestWord} (h : requestOfTable nbits w = some r) (s : State) :
    s.withFetchWord nbits w = s.setInputs (inputOf r :: s.inputs) := by
  unfold State.withFetchWord
  rw [h]

/-- A word of the table that is an operation is one of a port, and decodes there. -/
theorem exists_request_of_decodeTableWord {nbits w : Nat} {i : Instr} (h : decodeTableWord nbits w = some i) :
    ∃ r, requestOfTable nbits w = some r ∧ decode r = .ok i := by
  cases hrow : requestOfTable nbits w with
  | none =>
    unfold decodeTableWord at h
    rw [hrow] at h
    cases h
  | some r =>
    rw [decodeTableWord_of_request hrow] at h
    refine ⟨r, rfl, ?_⟩
    cases hdecode : decode r with
    | ok j =>
      rw [hdecode] at h
      exact congrArg Except.ok (Option.some.inj h)
    | error e =>
      rw [hdecode] at h
      cases h

/-- Settles O55: the word placed is the oldest input, and O38 says what the step of it is. -/
theorem tableWordRunsNext : Obligations.TableWordRunsNext := by
  intro s nbits w i h
  obtain ⟨r, hrow, hdecode⟩ := exists_request_of_decodeTableWord h
  obtain ⟨hrun, -⟩ := stepRunsTheDecodedOperation (s.setInputs (inputOf r :: s.inputs)) r s.inputs rfl
  have hstep := hrun i hdecode
  rw [withFetchWord_of_request hrow]
  obtain ⟨hport, ⟨v, rfl⟩ | ⟨x, rfl⟩⟩ | ⟨hport, ⟨a, rfl⟩ | ⟨p, rfl⟩⟩ := requestOfTable_cases hrow
  · exact hstep.trans (if_pos hport).symm
  · exact hstep.trans (if_pos hport).symm
  · exact hstep.trans (if_neg hport).symm
  · exact hstep.trans (if_neg hport).symm

/-! ### Cycles -/

/-- Settles O39: each unit takes its request from its own fields, so the two orders write the same state. -/
theorem cycleServesBothPorts : Obligations.CycleServesBothPorts := by
  intro s y rest hinputs hrst
  refine ⟨?cycle, ?order, fun v t => exec_enc v t, fun x t => exec_dec x t⟩
  case cycle =>
    rw [step_cycle hinputs, runCycle_eq, hrst]
    rfl
  case order =>
    cases y.encReqStb <;> cases y.decReqStb <;> rfl

/-- A pipeline that holds nothing, and takes nothing, drives nothing and goes on holding nothing. -/
theorem shiftIn_none {α : Type} {l : List (Option α)} (h : ∀ r ∈ l, r = none) :
    (∀ r ∈ (shiftIn none l).1, r = none) ∧ (shiftIn none l).2 = none :=
  ⟨fun r hr => (mem_shiftIn hr).elim id (h r), (shiftIn_snd none l).elim id (h _)⟩

/-- Settles O40. -/
theorem idleStepIsANopCycle : Obligations.IdleStepIsANopCycle := by
  intro s hinputs
  refine ⟨step_nil hinputs, ?idle⟩
  rintro ⟨-, -, henc, hdec, hencSlots, hdecSlots⟩
  obtain ⟨hencKept, hencDriven⟩ := shiftIn_none hencSlots
  obtain ⟨hdecKept, hdecDriven⟩ := shiftIn_none hdecSlots
  refine ⟨⟨rfl, rfl, rfl, rfl, ?_, ?_⟩, ?_, ?_, rfl, rfl⟩
  · rwa [State.clock_encSlots, henc]
  · rwa [State.clock_decSlots, hdec]
  · rw [State.clock_encRspStb, henc, hencDriven, Option.isSome_none]
  · rw [State.clock_decRspStb, hdec, hdecDriven, Option.isSome_none]

/-! ### Calls -/

/-- A safe call begins; what it does to the state is to give it inputs. -/
theorem beginCall_of_safe {c : Call} (h : c.safe = true) (s : State) : ∃ l, beginCall c s = .next (s.setInputs l) := by
  have hencode (v : Value) {dst : List Byte} (hdst : 13 ≤ dst.length) :
      ∃ l, callEncode v dst s = .next (s.setInputs l) := ⟨_, (callEncode_eq v dst s).trans (if_neg hdst.not_gt)⟩
  have hdecode {src : List Byte} (hsrc : src.length = 13) : ∃ l, callDecode src s = .next (s.setInputs l) :=
    ⟨_, (callDecode_eq src s).trans ((if_neg hsrc.not_lt).trans (if_neg hsrc.not_gt))⟩
  cases c with
  | encodeUint64 v dst => exact hencode v (of_decide_eq_true h)
  | encodeUint64ToString v => exact hencode v le_rfl
  | decodeUint64 src => exact hdecode (of_decide_eq_true h)
  | decodeUint64FromString src => exact hdecode (of_decide_eq_true h)

/-- A decode of more or fewer than 13 symbols: the contract is broken, or the input has no meaning (U4). -/
theorem callDecode_of_length_ne {src : List Byte} (h : src.length ≠ 13) (s : State) :
    src.length < 13 ∨ (13 < src.length ∧ callDecode src s = .refused .decSrcLong) := by
  rcases Nat.lt_or_gt_of_ne h with hshort | hlong
  · exact .inl hshort
  · exact .inr ⟨hlong, (callDecode_eq src s).trans ((if_neg hlong.le.not_gt).trans (if_pos hlong))⟩

/-- Any other call is one that violates its contract, or an overlong decode, which is refused (R151, U4). -/
theorem beginCall_of_unsafe {c : Call} (h : c.safe = false) (s : State) :
    (∃ r, c.violation = some r) ∨
    (beginCall c s = .refused .decSrcLong ∧
      ∃ src, 13 < src.length ∧ (c = .decodeUint64 src ∨ c = .decodeUint64FromString src)) := by
  cases c with
  | encodeUint64 v dst => exact .inl ⟨_, if_pos (Nat.lt_of_not_le (of_decide_eq_false h))⟩
  | encodeUint64ToString v => cases h
  | decodeUint64 src =>
    rcases callDecode_of_length_ne (of_decide_eq_false h) s with hshort | ⟨hlen, hrefused⟩
    · exact .inl ⟨_, if_pos hshort⟩
    · exact .inr ⟨hrefused, src, hlen, .inl rfl⟩
  | decodeUint64FromString src =>
    rcases callDecode_of_length_ne (of_decide_eq_false h) s with hshort | ⟨hlen, hrefused⟩
    · exact .inl ⟨_, if_pos hshort⟩
    · exact .inr ⟨hrefused, src, hlen, .inr rfl⟩

/-! ### Completing, and refusing -/

theorem runInput_of_safe {i : Input} (h : i.safe = true) (s : State) : ∃ t, runInput i s = .next t := by
  cases i with
  | cycle c => exact ⟨_, runCycle_eq c s⟩
  | position u w =>
    have hw : w.toNat < 13 := of_decide_eq_true h
    cases u with
    | encoder => exact ⟨_, runWord_encoder_position hw s⟩
    | decoder => exact ⟨_, runWord_decoder_position hw s⟩
  | elaborate w => exact ⟨_, runWord_elaboration_of_eq (of_decide_eq_true h) s⟩
  | call c =>
    obtain ⟨l, hl⟩ := beginCall_of_safe h s
    exact ⟨_, hl⟩
  | await c =>
    obtain ⟨t, ht, -⟩ := finishCall_next c s
    exact ⟨t, ht⟩

/-- What an input that is not safe ends with: the fault of a call, or one of the three refusals. -/
theorem runInput_of_unsafe {i : Input} (h : i.safe = false) (s : State) :
    (∃ r, runInput i s = .fault r) ∨
    (runInput i s = .refused .noSuchPosition ∧ ∃ u w, i = .position u w ∧ 13 ≤ w.toNat) ∨
    (runInput i s = .refused .illegalAlphabet ∧ ∃ w, i = .elaborate w ∧ unpackAlphabet w ≠ Config.alphabet) ∨
    (runInput i s = .refused .decSrcLong ∧ ∃ src, 13 < src.length ∧
      (i = .call (.decodeUint64 src) ∨ i = .call (.decodeUint64FromString src))) := by
  cases i with
  | cycle c => cases h
  | position u w =>
    have hw : 13 ≤ w.toNat := Nat.le_of_not_lt (of_decide_eq_false h)
    exact .inr (.inl ⟨runWord_position_of_le hw u s, u, w, rfl, hw⟩)
  | elaborate w =>
    have hw : unpackAlphabet w ≠ Config.alphabet := of_decide_eq_false h
    exact .inr (.inr (.inl ⟨runWord_elaboration_of_ne hw s, w, rfl, hw⟩))
  | call c =>
    rcases beginCall_of_unsafe h s with ⟨r, hr⟩ | ⟨hrefused, src, hlen, hcall⟩
    · exact .inl ⟨r, (beginCall_eq_fault_iff c s r).2 hr⟩
    · exact .inr (.inr (.inr ⟨hrefused, src, hlen, hcall.imp (congrArg Input.call) (congrArg Input.call)⟩))
  | await c => cases h

/-- Settles O49: a safe input runs, and any other ends the step with a fault or a refusal. -/
theorem stepCompletesIffTheInputIsSafe : Obligations.StepCompletesIffTheInputIsSafe := by
  refine fun s => ⟨?safe, ?completes⟩
  case safe =>
    rintro ⟨t, ht⟩ i rest hinputs
    rw [step_cons hinputs] at ht
    by_contra hunsafe
    obtain ⟨r, hr⟩ | ⟨hr, -⟩ | ⟨hr, -⟩ | ⟨hr, -⟩ :=
      runInput_of_unsafe (Bool.eq_false_iff.2 hunsafe) (s.setInputs rest) <;>
    exact nomatch ht.symm.trans hr
  case completes =>
    intro hsafe
    cases hinputs : s.inputs with
    | nil => exact ⟨_, step_nil hinputs⟩
    | cons i rest =>
      rw [step_cons hinputs]
      exact runInput_of_safe (hsafe i rest hinputs) _

/-- Settles O51: the input of a step that refuses is not safe, and these are the outcomes of such an input. -/
theorem refusalsAreTheThreeTheSpecNames : Obligations.RefusalsAreTheThreeTheSpecNames := by
  intro s r hstep
  cases hinputs : s.inputs with
  | nil => exact nomatch (step_nil hinputs).symm.trans hstep
  | cons i rest =>
    rw [step_cons hinputs] at hstep
    have hunsafe : i.safe = false := by
      by_contra hsafe
      obtain ⟨t, ht⟩ := runInput_of_safe (Bool.eq_true_of_not_eq_false hsafe) (s.setInputs rest)
      exact nomatch ht.symm.trans hstep
    obtain ⟨f, hf⟩ | ⟨hr, u, w, rfl, hw⟩ | ⟨hr, w, rfl, hw⟩ | ⟨hr, src, hlen, hcall⟩ :=
      runInput_of_unsafe hunsafe (s.setInputs rest)
    · exact nomatch hf.symm.trans hstep
    · cases hr.symm.trans hstep
      exact .inl ⟨rfl, u, w, rest, rfl, hw⟩
    · cases hr.symm.trans hstep
      exact .inr (.inl ⟨rfl, w, rest, rfl, hw⟩)
    · cases hr.symm.trans hstep
      exact .inr (.inr ⟨rfl, src, rest, hlen, hcall.imp (congrArg (· :: rest)) (congrArg (· :: rest))⟩)

end Sys2Proof.Machine
end

section
/-! PROOFS. What an operation writes: BUILD on tables already built, the unit an operation belongs to, and the positions
of a unit run in any order. -/

namespace Sys2Proof.Machine

/-! ### BUILD again -/

theorem setRoms_nil_of_tablesBuilt {s : State} (h : s.TablesBuilt) : s.setRoms [] [] = s := by
  obtain ⟨henc, hdec⟩ := h
  cases s
  subst henc hdec
  rfl

theorem exec_build_of_tablesBuilt {s : State} (h : s.TablesBuilt) : exec (.build Config.alphabet) s = .next s := by
  rw [exec_build_alphabet h.memWf, setRoms_nil_of_tablesBuilt h]

/-- Settles O33: BUILD leaves the tables as built, and there it changes nothing. -/
theorem buildIsIdempotent : Obligations.BuildIsIdempotent := by
  refine ⟨fun s h => exec_build_of_tablesBuilt h, fun s t h hexec => ?_⟩
  rw [exec_build_alphabet h] at hexec
  cases hexec
  exact exec_build_of_tablesBuilt ⟨rfl, rfl⟩

/-! ### The unit of an operation -/

/-- An operation's unit, by its word's port (`tableRow`). -/
theorem unit_encode_encPosInstr (p : Pos) : (encode (encPosInstr p)).unit = some .encoder := by
  rw [encode_encPosInstr]
  rfl

theorem unit_encode_decPosInstr (p : Pos) : (encode (decPosInstr p)).unit = some .decoder := by
  rw [encode_decPosInstr]
  rfl

theorem unit_encode_of_encoder {i : Instr} (h : (∃ v, i = .enc v) ∨ ∃ p, i = encPosInstr p) :
    (encode i).unit = some .encoder := by
  obtain ⟨v, rfl⟩ | ⟨p, rfl⟩ := h
  · rfl
  · exact unit_encode_encPosInstr p

theorem unit_encode_of_decoder {i : Instr} (h : (∃ x, i = .dec x) ∨ ∃ p, i = decPosInstr p) :
    (encode i).unit = some .decoder := by
  obtain ⟨x, rfl⟩ | ⟨p, rfl⟩ := h
  · rfl
  · exact unit_encode_decPosInstr p

theorem unit_encode_of_build {i : Instr} (h : ∃ a, i = .build a) : (encode i).unit = none := by
  obtain ⟨a, rfl⟩ := h
  rfl

/-- Everything an operation can write: its unit's named values and response, or, for BUILD, the two tables. -/
theorem exec_writes {i : Instr} {s t : State} (h : exec i s = .next t) :
    ((encode i).unit = some .encoder ∧ ∃ e r, t = (s.setEnc e).setEncIn r) ∨
    ((encode i).unit = some .decoder ∧ ∃ d r, t = (s.setDec d).setDecIn r) ∨
    (i = .build Config.alphabet ∧ ∃ e d, t = s.setRoms e d) := by
  obtain ⟨v, rfl, rfl⟩ | ⟨x, rfl, rfl⟩ | ⟨rfl, rfl⟩ | ⟨p, rfl, rfl⟩ | ⟨p, rfl, rfl⟩ := exec_cases h
  · exact .inl ⟨rfl, _, _, rfl⟩
  · exact .inr (.inl ⟨rfl, _, _, rfl⟩)
  · exact .inr (.inr ⟨rfl, _, _, rfl⟩)
  · exact .inl ⟨unit_encode_encPosInstr p, (s.encPosition p).enc, s.encIn, rfl⟩
  · exact .inr (.inl ⟨unit_encode_decPosInstr p, (s.decPosition p).dec, s.decIn, rfl⟩)

/-- Settles O35: an operation of one unit is none of the other and not BUILD, so what it writes is its own. -/
theorem operationsTouchOnlyTheirOwnUnit : Obligations.OperationsTouchOnlyTheirOwnUnit := by
  intro i s t h
  obtain ⟨hunit, e, r, rfl⟩ | ⟨hunit, d, r, rfl⟩ | ⟨rfl, e, d, rfl⟩ := exec_writes h
  · refine ⟨fun _ => ⟨fun _ => rfl, fun _ => rfl⟩, fun _ => ⟨rfl, rfl, rfl⟩, fun hdec => ?_, fun hbuild => ?_,
      rfl, rfl, rfl, rfl, rfl, rfl, rfl, rfl, rfl, rfl⟩
    · exact nomatch hunit.symm.trans (unit_encode_of_decoder hdec)
    · exact nomatch hunit.symm.trans (unit_encode_of_build hbuild)
  · refine ⟨fun _ => ⟨fun _ => rfl, fun _ => rfl⟩, fun henc => ?_, fun _ => ⟨rfl, rfl, rfl⟩, fun hbuild => ?_,
      rfl, rfl, rfl, rfl, rfl, rfl, rfl, rfl, rfl, rfl⟩
    · exact nomatch hunit.symm.trans (unit_encode_of_encoder henc)
    · exact nomatch hunit.symm.trans (unit_encode_of_build hbuild)
  · refine ⟨fun hne => absurd rfl (hne _), fun henc => ?_, fun hdec => ?_, fun _ => ⟨rfl, rfl, rfl, rfl⟩,
      rfl, rfl, rfl, rfl, rfl, rfl, rfl, rfl, rfl, rfl⟩
    · exact nomatch unit_encode_of_encoder henc
    · exact nomatch unit_encode_of_decoder hdec

/-! ### The positions of a unit, in any order -/

/-- Write `f p` at each position `p` of a list, one after another. -/
def setEach {α : Type} (f : Pos → α) (l : List Pos) (a : PerPos α) : PerPos α :=
  l.foldl (fun b (p : Pos) => b.set p (f p)) a

@[simp] theorem setEach_nil {α : Type} (f : Pos → α) (a : PerPos α) : setEach f [] a = a := rfl

@[simp] theorem setEach_cons {α : Type} (f : Pos → α) (p : Pos) (l : List Pos) (a : PerPos α) :
    setEach f (p :: l) a = setEach f l (a.set p (f p)) := rfl

theorem setEach_getElem {α : Type} (f : Pos → α) (l : List Pos) (a : PerPos α) (q : Pos) :
    (setEach f l a)[q] = if q ∈ l then f q else a[q] := by
  induction l generalizing a with
  | nil => simp
  | cons p l ih =>
    rw [setEach_cons, ih]
    by_cases hl : q ∈ l
    · simp [hl]
    · by_cases hp : p = q
      · subst hp
        simp [hl]
      · have hval : p.val ≠ q.val := Fin.val_ne_of_ne hp
        simp [hl, Ne.symm hp, Vector.getElem_set_ne _ _ hval]

/-- A list of all positions writes all of them, in whatever order. -/
theorem setEach_eq_tab13 {α : Type} (f : Pos → α) {l : List Pos} (h : ∀ p, p ∈ l) (a : PerPos α) :
    setEach f l a = tab13 f :=
  perPos_ext fun p => by rw [setEach_getElem, if_pos (h p), tab13_getElem]

/-- Within a transaction `t`, the encoder's positions of a list write its groups at them. -/
theorem execAll_encPos (l : List Pos) (s : State) (t : EncTxn) :
    execAll (l.map encPosInstr) (s.setEnc (some t)) =
      .next (s.setEnc (some { t with grp := setEach (groupOf · t.value) l t.grp })) := by
  induction l generalizing t with
  | nil => rfl
  | cons p l ih =>
    rw [List.map_cons, execAll, exec_encPos, andThen_next]
    exact ih { t with grp := t.grp.set p (groupOf p t.value) }

/-- Within a transaction `t`, the decoder's positions of a list write its lookups and contributions at them. -/
theorem execAll_decPos (l : List Pos) (s : State) (t : DecTxn) :
    execAll (l.map decPosInstr) (s.setDec (some t)) =
      .next (s.setDec (some { t with
        raw := setEach (fun p => readDecRom s.decRom t.sym[p]) l t.raw
        contrib := setEach (fun p => contribOf p (readDecRom s.decRom t.sym[p])) l t.contrib })) := by
  induction l generalizing t with
  | nil => rfl
  | cons p l ih =>
    rw [List.map_cons, execAll, exec_decPos, andThen_next]
    exact ih { t with
      raw := t.raw.set p (readDecRom s.decRom t.sym[p])
      contrib := t.contrib.set p (contribOf p (readDecRom s.decRom t.sym[p])) }

/-- The first micro-operation of a list finds the same values whether or not a transaction has been begun. -/
theorem execAll_encPos_begin {l : List Pos} (h : l ≠ []) (s : State) :
    execAll (l.map encPosInstr) s = execAll (l.map encPosInstr) (s.setEnc (some s.encTxn)) := by
  cases l with
  | nil => exact absurd rfl h
  | cons p l =>
    simp only [List.map_cons, execAll, exec_encPos, andThen_next]
    rfl

theorem execAll_decPos_begin {l : List Pos} (h : l ≠ []) (s : State) :
    execAll (l.map decPosInstr) s = execAll (l.map decPosInstr) (s.setDec (some s.decTxn)) := by
  cases l with
  | nil => exact absurd rfl h
  | cons p l =>
    simp only [List.map_cons, execAll, exec_decPos, andThen_next]
    rfl

theorem mem_of_perm_finRange {l : List Pos} (h : l.Perm (List.finRange 13)) (p : Pos) : p ∈ l :=
  h.mem_iff.2 (List.mem_finRange p)

/-- Settles O36: the groups are written at every position, so the order leaves no trace. -/
theorem encoderPositionsInAnyOrderGiveTheGroups : Obligations.EncoderPositionsInAnyOrderGiveTheGroups := by
  intro s l hperm
  have hmem := mem_of_perm_finRange hperm
  have hrun : execAll (l.map encPosInstr) s =
      .next (s.setEnc (some { s.encTxn with grp := groupsOf s.encTxn.value })) := by
    rw [execAll_encPos_begin (List.ne_nil_of_mem (hmem 0)), execAll_encPos, setEach_eq_tab13 _ hmem, groupsOf]
  exact ⟨_, _, _, hrun, exec_enc _ s, s.acceptEnc_enc _, rfl, rfl⟩

/-- Settles O37, as O36. -/
theorem decoderPositionsInAnyOrderGiveTheLookups : Obligations.DecoderPositionsInAnyOrderGiveTheLookups := by
  intro s l hperm
  have hmem := mem_of_perm_finRange hperm
  let d : DecTxn := decTransaction s.decRom s.draw s.decTxn.sym
  have hrun : execAll (l.map decPosInstr) s =
      .next (s.setDec (some { s.decTxn with raw := d.raw, contrib := d.contrib })) := by
    rw [execAll_decPos_begin (List.ne_nil_of_mem (hmem 0)), execAll_decPos, setEach_eq_tab13 _ hmem,
      setEach_eq_tab13 _ hmem]
    have hcontrib : tab13 (fun p => contribOf p (readDecRom s.decRom s.decTxn.sym[p])) = d.contrib :=
      perPos_ext fun p => by rw [tab13_getElem, decTransaction_contrib_getElem]
    rw [hcontrib]
    rfl
  exact ⟨_, _, d, hrun, exec_dec _ s, s.acceptDec_dec _, rfl, rfl, decTransaction_value⟩

end Sys2Proof.Machine
end

section
/-! PROOFS. Two runs side by side: what the decoder does is a function of what the decoder has and is asked, and so for
the encoder (R21, R174); a decode changes no more than its own response; and the pipelines run empty (R181). -/

namespace Sys2Proof.Machine

/-! ### States that agree on the decoder -/

theorem DecoderAgrees.setInputs {s t : State} (h : DecoderAgrees s t) (l m : List Input) :
    DecoderAgrees (s.setInputs l) (t.setInputs m) := ⟨h.rom, h.txn, h.intake, h.slots, h.stb, h.valid, h.value, h.draw⟩

/-- Requests of the encoder, the same in both or not, are nothing to the decoder. -/
theorem DecoderAgrees.takeEnc {s t : State} (h : DecoderAgrees s t) (a b : Bool) (v w : Value) :
    DecoderAgrees (if a then s.acceptEnc v else s) (if b then t.acceptEnc w else t) := by
  obtain ⟨rom, txn, intake, slots, stb, valid, value, draw⟩ := h
  cases a <;> cases b <;> exact ⟨rom, txn, intake, slots, stb, valid, value, draw⟩

/-- The same request of the decoder gets the same answer from the same table and free value. -/
theorem DecoderAgrees.takeDec {s t : State} (h : DecoderAgrees s t) (b : Bool) (x : Symbols) :
    DecoderAgrees (if b then s.acceptDec x else s) (if b then t.acceptDec x else t) := by
  cases b with
  | false => exact h
  | true => constructor <;> simp [h.rom, h.slots, h.stb, h.valid, h.value, h.draw]

theorem DecoderAgrees.clock {s t : State} (h : DecoderAgrees s t) : DecoderAgrees s.clock t.clock := by
  constructor <;> simp [h.rom, h.intake, h.slots, h.draw]

theorem DecoderAgrees.resetCycle {s t : State} (h : DecoderAgrees s t) : DecoderAgrees s.resetCycle t.resetCycle := by
  constructor <;> simp [h.rom, h.slots, h.draw, State.resetCycle]

/-- The decoder's inputs of a cycle are the same: reset, and its request. -/
def SameDecRequest (c d : PortCycle) : Prop :=
  c.rst = d.rst ∧ c.decReqStb = d.decReqStb ∧ c.decReqSym = d.decReqSym

theorem DecoderAgrees.runCycle {s t : State} {c d : PortCycle} (h : DecoderAgrees s t) (hsame : SameDecRequest c d) :
    ∃ s' t', runCycle c s = .next s' ∧ Machine.runCycle d t = .next t' ∧ DecoderAgrees s' t' := by
  obtain ⟨hrst, hstb, hsym⟩ := hsame
  refine ⟨_, _, runCycle_eq c s, runCycle_eq d t, ?_⟩
  rw [hrst, hstb, hsym]
  split
  · exact h.resetCycle
  · exact ((h.takeEnc _ _ _ _).takeDec _ _).clock

/-! ### States that agree on the encoder -/

theorem EncoderAgrees.setInputs {s t : State} (h : EncoderAgrees s t) (l m : List Input) :
    EncoderAgrees (s.setInputs l) (t.setInputs m) := ⟨h.rom, h.txn, h.intake, h.slots, h.stb, h.sym, h.draw⟩

/-- The same request of the encoder gets the same answer from the same table. -/
theorem EncoderAgrees.takeEnc {s t : State} (h : EncoderAgrees s t) (b : Bool) (v : Value) :
    EncoderAgrees (if b then s.acceptEnc v else s) (if b then t.acceptEnc v else t) := by
  cases b with
  | false => exact h
  | true => constructor <;> simp [h.rom, h.slots, h.stb, h.sym, h.draw]

/-- Requests of the decoder, the same in both or not, are nothing to the encoder. -/
theorem EncoderAgrees.takeDec {s t : State} (h : EncoderAgrees s t) (a b : Bool) (x y : Symbols) :
    EncoderAgrees (if a then s.acceptDec x else s) (if b then t.acceptDec y else t) := by
  obtain ⟨rom, txn, intake, slots, stb, sym, draw⟩ := h
  cases a <;> cases b <;> exact ⟨rom, txn, intake, slots, stb, sym, draw⟩

theorem EncoderAgrees.clock {s t : State} (h : EncoderAgrees s t) : EncoderAgrees s.clock t.clock := by
  constructor <;> simp [h.rom, h.intake, h.slots, h.draw]

theorem EncoderAgrees.resetCycle {s t : State} (h : EncoderAgrees s t) : EncoderAgrees s.resetCycle t.resetCycle := by
  constructor <;> simp [h.rom, h.slots, h.draw, State.resetCycle]

/-- The encoder's inputs of a cycle are the same: reset, and its request. -/
def SameEncRequest (c d : PortCycle) : Prop :=
  c.rst = d.rst ∧ c.encReqStb = d.encReqStb ∧ c.encReqValue = d.encReqValue

theorem EncoderAgrees.runCycle {s t : State} {c d : PortCycle} (h : EncoderAgrees s t) (hsame : SameEncRequest c d) :
    ∃ s' t', runCycle c s = .next s' ∧ Machine.runCycle d t = .next t' ∧ EncoderAgrees s' t' := by
  obtain ⟨hrst, hstb, hvalue⟩ := hsame
  refine ⟨_, _, runCycle_eq c s, runCycle_eq d t, ?_⟩
  rw [hrst, hstb, hvalue]
  split
  · exact h.resetCycle
  · exact ((h.takeEnc _ _).takeDec _ _ _ _).clock

/-! ### Two schedules, cycle by cycle -/

theorem cycleAt_tail (cs : List PortCycle) (k : Nat) : cycleAt cs.tail k = cycleAt cs (k + 1) := by
  cases cs <;> rfl

/-- One step of a schedule is its cycle 0. -/
theorem step_schedule_cycleAt {s : State} {cs : List PortCycle} (h : s.inputs = cs.map Input.cycle) :
    step s = runCycle (cycleAt cs 0) (s.setInputs (cs.tail.map Input.cycle)) := by
  rw [step_schedule h, ← headD_drop_eq_cycleAt, List.drop_zero]

/-- A clock cycle takes no input of the host and writes no table. -/
theorem runCycle_keeps {c : PortCycle} {s t : State} (h : runCycle c s = .next t) :
    t.inputs = s.inputs ∧ t.encRom = s.encRom ∧ t.decRom = s.decRom := by
  rw [runCycle_eq, Host.Outcome.next.injEq] at h
  subst h
  split_ifs <;> exact ⟨rfl, rfl, rfl⟩

/-- A relation of states that every pair of cycles in `Q` keeps is kept by two schedules that are in `Q` cycle by cycle,
for any number of cycles. -/
theorem runSteps_keeps {R : State → State → Prop} {Q : PortCycle → PortCycle → Prop}
    (hinputs : ∀ {s t}, R s t → ∀ l m, R (s.setInputs l) (t.setInputs m))
    (hcycle : ∀ {s t c d}, R s t → Q c d → ∃ s' t', runCycle c s = .next s' ∧ runCycle d t = .next t' ∧ R s' t')
    {s t : State} {cs ds : List PortCycle} (h : R s t) (hs : s.inputs = cs.map Input.cycle)
    (ht : t.inputs = ds.map Input.cycle) (hQ : ∀ k, Q (cycleAt cs k) (cycleAt ds k)) (n : Nat) :
    ∃ s' t', runSteps n s = .next s' ∧ runSteps n t = .next t' ∧ R s' t' := by
  induction n generalizing s t cs ds with
  | zero => exact ⟨s, t, rfl, rfl, h⟩
  | succ n ih =>
    obtain ⟨s₁, t₁, hs₁, ht₁, h₁⟩ :=
      hcycle (hinputs h (cs.tail.map Input.cycle) (ds.tail.map Input.cycle)) (hQ 0)
    obtain ⟨s', t', hs', ht', h'⟩ := ih h₁ (runCycle_keeps hs₁).1 (runCycle_keeps ht₁).1 fun k => by
      rw [cycleAt_tail, cycleAt_tail]
      exact hQ (k + 1)
    exact ⟨s', t', (runSteps_succ_of_next ((step_schedule_cycleAt hs).trans hs₁)).trans hs',
      (runSteps_succ_of_next ((step_schedule_cycleAt ht).trans ht₁)).trans ht', h'⟩

/-- Settles O44, by induction on the number of cycles: one cycle keeps the agreement of each unit. -/
theorem unitsDoNotInfluenceEachOther : Obligations.UnitsDoNotInfluenceEachOther :=
  ⟨fun _ _ _ _ n h hs ht hsame => runSteps_keeps (Q := SameDecRequest) DecoderAgrees.setInputs DecoderAgrees.runCycle
      h hs ht hsame n,
    fun _ _ _ _ n h hs ht hsame => runSteps_keeps (Q := SameEncRequest) EncoderAgrees.setInputs EncoderAgrees.runCycle
      h hs ht hsame n⟩

/-! ### One decode against another -/

theorem EncoderAgrees.refl (s : State) : EncoderAgrees s s := ⟨rfl, rfl, rfl, rfl, rfl, rfl, rfl⟩

/-- What comes into a pipeline is in slot 0 after the edge: the slots behind it do not depend on it. -/
theorem shiftIn_fst_tail_congr {α : Type} (x y : α) (l : List α) : (shiftIn x l).1.tail = (shiftIn y l).1.tail := by
  cases l <;> rfl

/-- What is driven does not depend on it either, where there is a slot. -/
theorem shiftIn_snd_congr {α : Type} (x y : α) {l : List α} (h : l ≠ []) : (shiftIn x l).2 = (shiftIn y l).2 := by
  cases l with
  | nil => exact absurd rfl h
  | cons z l => rfl

/-- The strobe depends only on whether something came in. -/
theorem isSome_shiftIn_some {α : Type} (x y : α) (l : List (Option α)) :
    (shiftIn (some x) l).2.isSome = (shiftIn (some y) l).2.isSome := by
  cases l <;> rfl

/-- Settles O45: a cycle without the decoder's strobe does not read the word; with it the word's response comes into the
pipeline, and goes no further than slot 0. -/
theorem failedDecodeChangesOnlyItsResponse : Obligations.FailedDecodeChangesOnlyItsResponse := by
  intro s y w rest hrst
  let e : State := if y.encReqStb then (s.setInputs rest).acceptEnc y.encReqValue else s.setInputs rest
  have hslots : e.decSlots = s.decSlots := by
    unfold e
    split <;> rfl
  have hstep (z : Bus) : step (s.setInputs (.cycle { y with decReqSym := z } :: rest)) =
      .next (if y.decReqStb then e.acceptDec (unpackSym z) else e).clock := by
    rw [step_setInputs_cons]
    exact (runCycle_eq _ _).trans (by rw [hrst]; rfl)
  refine ⟨_, _, hstep y.decReqSym, hstep w, ?_⟩
  clear_value e
  generalize unpackSym y.decReqSym = a, unpackSym w = b
  cases y.decReqStb with
  | false =>
    rw [if_neg Bool.false_ne_true, if_neg Bool.false_ne_true]
    exact ⟨EncoderAgrees.refl _, rfl, rfl, rfl, rfl, rfl, rfl, rfl, rfl, rfl, fun _ => ⟨rfl, rfl⟩⟩
  | true =>
    refine ⟨((EncoderAgrees.refl e).takeDec true true a b).clock, ?_⟩
    simp only [if_true, State.clock_decRom, State.clock_dec, State.clock_decIn, State.clock_inputs,
      State.clock_callResult, State.clock_decSlots, State.clock_decRspStb, State.clock_decRspValid,
      State.clock_decRspValue, State.acceptDec_decRom, State.acceptDec_inputs, State.acceptDec_callResult,
      State.acceptDec_decSlots, State.acceptDec_decIn, State.acceptDec_draw, shiftIn_length, hslots]
    generalize (decTransaction e.decRom e.draw a).rsp = q, (decTransaction e.decRom e.draw b).rsp = r
    refine ⟨trivial, trivial, trivial, trivial, shiftIn_fst_tail_congr _ _ _, trivial, isSome_shiftIn_some _ _ _,
      trivial, trivial, fun hne => ?_⟩
    rw [shiftIn_snd_congr (some q) (some r) hne]
    exact ⟨rfl, rfl⟩

/-! ### Idle cycles (R181) -/

/-- Steps without inputs are clock edges. -/
theorem runSteps_idle {s : State} (h : s.inputs = []) (n : Nat) : runSteps n s = .next (State.clock^[n] s) := by
  induction n generalizing s with
  | zero => rfl
  | succ n ih => exact (runSteps_succ_of_next (step_nil h)).trans (ih h)

section Drain

variable {σ α : Type} {tick : σ → σ} {intake : σ → Option α} {slots : σ → List (Option α)}
  (htick : ∀ s, slots (tick s) = (shiftIn (intake s) (slots s)).1) (hintake : ∀ s, intake (tick s) = none)

include htick hintake

/-- With nothing coming in, as many empty slots stand in front of the old ones as edges have been. -/
theorem slots_iterate_of_intake_none {s : σ} (h : intake s = none) (n : Nat) :
    slots (tick^[n] s) = (List.replicate n none ++ slots s).take (slots s).length := by
  induction n generalizing s with
  | zero => exact List.take_length.symm
  | succ n ih =>
    have hlength : (shiftIn (none : Option α) (slots s)).1.length = (slots s).length := shiftIn_length _ _
    rw [Function.iterate_succ_apply, ih (hintake s), htick, h, hlength, List.replicate_succ', List.append_assoc,
      List.singleton_append, ← shiftIn_append, ← List.append_assoc]
    refine (List.take_append_of_le_length ?_).symm
    rw [List.length_append, hlength]
    exact Nat.le_add_left _ _

theorem eq_none_of_mem_slots_iterate {s : σ} (h : intake s = none) {n : Nat} (hn : (slots s).length ≤ n) :
    ∀ r ∈ slots (tick^[n] s), r = none := by
  intro r hr
  rw [slots_iterate_of_intake_none htick hintake h, List.take_append_of_le_length (by simpa using hn)] at hr
  exact List.eq_of_mem_replicate (List.mem_of_mem_take hr)

end Drain

/-- Settles O43: after as many edges as there are slots every slot is one of the empty ones that came in. -/
theorem runIsCompleteAfterTheLatency : Obligations.RunIsCompleteAfterTheLatency := by
  intro s n hinputs henc hdec hn hencSlots hdecSlots
  obtain ⟨hencRom, hdecRom, -⟩ := clock_iterate_keeps n s
  refine ⟨_, runSteps_idle hinputs n, ⟨?_, ?_, ?_, ?_,
    eq_none_of_mem_slots_iterate State.clock_encSlots State.clock_encIn henc hencSlots,
    eq_none_of_mem_slots_iterate State.clock_decSlots State.clock_decIn hdec hdecSlots⟩, hencRom, hdecRom,
    length_iterate_of_shiftIn State.clock_encSlots n s, length_iterate_of_shiftIn State.clock_decSlots n s⟩ <;>
  · obtain ⟨n, rfl⟩ := Nat.exists_eq_add_one_of_ne_zero hn.ne'
    rw [Function.iterate_succ_apply']
    rfl

end Sys2Proof.Machine
end

section
/-! PROOFS. What holds after reset and is kept by every step: the invariant, and the canonical form of the tables. -/

namespace Sys2Proof.Machine

/-! ### After reset -/

/-- Settles O1. -/
theorem resetLeavesTablesBuiltAndNothingInFlight : Obligations.ResetLeavesTablesBuiltAndNothingInFlight := by
  refine ⟨getElem?_map_symbolCode_alphabetChars, readDecRom_readEncRom_nil, fun b hb => ?_, rfl, rfl, rfl, rfl⟩
  rw [mem_alphabet_iff, Bool.not_eq_true] at hb
  exact (readDecRom_nil_eq_sentinel_iff b).2 hb

/-- Settles O46: no slot of reset holds a response, and its strobe is 0. -/
theorem resetMeetsTheInvariant : Obligations.ResetMeetsTheInvariant :=
  { tables := ⟨rfl, rfl⟩
    encInNone := rfl
    decInNone := rfl
    encLatency := List.length_replicate
    decLatency := List.length_replicate
    encInFlight := fun _ hmem => nomatch List.eq_of_mem_replicate hmem
    encPort := nofun }

/-! ### Everything a step can do -/

/-- A step that completes is a clock cycle, BUILD, or changes only the host's inputs, named values and call
result. -/
theorem step_cases {s t : State} (h : step s = .next t) :
    (∃ c l, runCycle c (s.setInputs l) = .next t) ∨
    (∃ w rest, s.inputs = .elaborate w :: rest ∧ t = (s.setInputs rest).buildTables Config.alphabet) ∨
    (∃ l e d r, t = (((s.setInputs l).setEnc e).setDec d).setCallResult r) := by
  have hsafe := (stepCompletesIffTheInputIsSafe s).1 ⟨t, h⟩
  cases hinputs : s.inputs with
  | nil => exact .inl ⟨_, _, (step_schedule (cs := []) hinputs).symm.trans h⟩
  | cons i rest =>
    have hi := hsafe i rest hinputs
    rw [step_cons hinputs] at h
    cases i with
    | cycle c => exact .inl ⟨c, rest, h⟩
    | position u w =>
      have hw : w.toNat < 13 := of_decide_eq_true hi
      cases u with
      | encoder =>
        cases (runWord_encoder_position hw _).symm.trans h
        exact .inr (.inr ⟨rest, ((s.setInputs rest).encPosition _).enc, s.dec, s.callResult, rfl⟩)
      | decoder =>
        cases (runWord_decoder_position hw _).symm.trans h
        exact .inr (.inr ⟨rest, s.enc, ((s.setInputs rest).decPosition _).dec, s.callResult, rfl⟩)
    | elaborate w =>
      have hbuild := runWord_elaboration_of_eq (of_decide_eq_true hi) (s.setInputs rest)
      exact .inr (.inl ⟨w, rest, rfl, Host.Outcome.next.inj (h.symm.trans hbuild)⟩)
    | call c =>
      obtain ⟨l, hl⟩ := beginCall_of_safe hi (s.setInputs rest)
      cases hl.symm.trans h
      exact .inr (.inr ⟨l, s.enc, s.dec, s.callResult, rfl⟩)
    | await c =>
      obtain ⟨u, hu, hkeeps⟩ := finishCall_next c (s.setInputs rest)
      cases hu.symm.trans h
      exact .inr (.inr ⟨t.inputs, s.enc, s.dec, t.callResult, hkeeps⟩)

/-! ### The invariant -/

@[simp] theorem pipelineCycle_length {α : Type} (rst : Bool) (x : Option α) (slots : List (Option α)) :
    (pipelineCycle rst x slots).1.length = slots.length := by
  cases rst <;> simp

/-- A response that is in a pipeline after a cycle came in at it or was in it before. -/
theorem some_mem_pipelineCycle {α : Type} {rst : Bool} {x : Option α} {y : α} {slots : List (Option α)}
    (h : some y ∈ (pipelineCycle rst x slots).1) : x = some y ∨ some y ∈ slots := by
  cases rst with
  | true => simp at h
  | false => exact (mem_shiftIn h).imp_left Eq.symm

/-- So did one that is driven. -/
theorem some_eq_pipelineCycle {α : Type} {rst : Bool} {x : Option α} {y : α} {slots : List (Option α)}
    (h : (pipelineCycle rst x slots).2 = some y) : x = some y ∨ some y ∈ slots := by
  cases rst with
  | true => cases h
  | false =>
    rw [pipelineCycle_false] at h
    rw [← h]
    exact (shiftIn_snd x slots).imp_left Eq.symm

/-- With the table as built, the encoder's answer is an encoded form. -/
theorem encAnswer_nil_eq_some {c : PortCycle} {x : Symbols} (h : encAnswer [] c = some x) : ∃ v, x = encFn v := by
  unfold encAnswer at h
  split at h
  · exact ⟨c.encReqValue, (Option.some.inj h).symm⟩
  · cases h

theorem State.Inv.runCycle {c : PortCycle} {s t : State} (hs : s.Inv) (h : runCycle c s = .next t) : t.Inv := by
  obtain ⟨u, hu, hcycle⟩ := runCycle_afterCycle c hs.encInNone hs.decInNone
  cases hu.symm.trans h
  obtain ⟨henc, hdec⟩ := hs.tables
  have hform {x : Symbols} (hx : encAnswer s.encRom c = some x ∨ some x ∈ s.encSlots) : ∃ v, x = encFn v := by
    rw [henc] at hx
    exact hx.elim encAnswer_nil_eq_some (hs.encInFlight x)
  exact
    { tables := ⟨hcycle.encRom.trans henc, hcycle.decRom.trans hdec⟩
      encInNone := hcycle.encIn
      decInNone := hcycle.decIn
      encLatency := by rw [hcycle.encSlots, pipelineCycle_length, hs.encLatency]
      decLatency := by rw [hcycle.decSlots, pipelineCycle_length, hs.decLatency]
      encInFlight := fun x hx => hform (some_mem_pipelineCycle (hcycle.encSlots ▸ hx))
      encPort := fun hstb => by
        obtain ⟨w, hw⟩ := Option.isSome_iff_exists.1 (t.encPort_isSome.trans hstb)
        obtain ⟨x, hx, rfl⟩ := Option.map_eq_some_iff.1 (hcycle.encPort.symm.trans hw)
        obtain ⟨v, rfl⟩ := hform (some_eq_pipelineCycle hx)
        exact ⟨v, State.encRspSym_of_encPort hw⟩ }

/-- Settles O47: a cycle moves encoded forms only, BUILD on tables as built changes nothing, and no other input touches
what the invariant speaks of. -/
theorem everyStepKeepsTheInvariant : Obligations.EveryStepKeepsTheInvariant := by
  intro s t hs hstep
  have hinputs (l : List Input) : (s.setInputs l).Inv :=
    ⟨hs.tables, hs.encInNone, hs.decInNone, hs.encLatency, hs.decLatency, hs.encInFlight, hs.encPort⟩
  obtain ⟨c, l, hcycle⟩ | ⟨w, rest, -, rfl⟩ | ⟨l, e, d, r, rfl⟩ := step_cases hstep
  · exact (hinputs l).runCycle hcycle
  · have hbuild := exec_build_of_tablesBuilt (hinputs rest).tables
    rw [exec_build, if_pos rfl, Host.Outcome.next.injEq] at hbuild
    rw [hbuild]
    exact hinputs rest
  · exact ⟨hs.tables, hs.encInNone, hs.decInNone, hs.encLatency, hs.decLatency, hs.encInFlight, hs.encPort⟩

/-! ### The canonical form -/

theorem memWf_buildTables {s : State} (h : s.MemWf) (a : AlphabetBytes) : (s.buildTables a).MemWf := by
  obtain ⟨henc, hdec⟩ := h
  rw [State.MemWf, State.buildTables_encRom, State.buildTables_decRom]
  exact ⟨wf_buildEncRom a henc, wf_invertEncRom _ (wf_clearDecRom hdec)⟩

/-- Settles O48: only BUILD's step writes a table, and its writes are inside the spaces. -/
theorem everyStepKeepsTablesCanonical : Obligations.EveryStepKeepsTablesCanonical := by
  intro s t hs hstep
  obtain ⟨c, l, hcycle⟩ | ⟨w, rest, hinputs, rfl⟩ | ⟨l, e, d, r, rfl⟩ := step_cases hstep
  · obtain ⟨-, henc, hdec⟩ := runCycle_keeps hcycle
    rw [State.MemWf, henc, hdec]
    exact ⟨hs, fun _ => ⟨fun _ => rfl, fun _ => rfl⟩⟩
  · exact ⟨memWf_buildTables hs Config.alphabet, fun hne => absurd hinputs (hne w rest)⟩
  · exact ⟨hs, fun _ => ⟨fun _ => rfl, fun _ => rfl⟩⟩

end Sys2Proof.Machine
end
